-- ==== Sys2Proof/Word.lean ====
section
/-! DEFINITION. The word types of the block's boundary (00_scope rule R10). -/

namespace Sys2Proof

/-- An unsigned integer 0 to 255 (rule R10). -/
abbrev Byte := BitVec 8

/-- `U32`, an unsigned integer of 32 bits (rule R10). -/
abbrev Word32 := BitVec 32

/-- `SINT` for `IVAL_W = 32`: a two's-complement integer of 32 bits, read with `toInt` (rules R10, R22). -/
abbrev SInt := BitVec 32

/-- `Flags3`: bit 2 is EFF, bit 1 is RTR, bit 0 is ERR (rules R10, R18). -/
abbrev Flags3 := BitVec 3

/-- A `Float` as its 64-bit binary64 pattern (rule R78). -/
abbrev Binary64 := BitVec 64

/-- `Buffer`: a finite sequence of bytes in offset order; its length is `buf_len` (rules R10, R28, R30). -/
abbrev Buffer := List Byte

end Sys2Proof
end

