-- ==== Sys2Proof/Syntax.lean ====
section
/-! DEFINITION. The operations and constants of spec/opcode_table.json, and the records that cross the block's boundary. -/

namespace Sys2Proof

/-- One constructor per row of spec/opcode_table.json, in the table's order.
The first eight are the operations (30_encoding rule R44); their operands stand in the operand record (rule R23).
The other fifteen are the constants of rules R56, R57 and R58, data values and not operations of the block. -/
inductive Instr where
  | frameEnc
  | frameDec
  | ivalToWire
  | ivalFromWire
  | bcmEnc
  | bcmDec
  | frameEq
  | bcmEq
  | txSetup
  | txDelete
  | txRead
  | rxSetup
  | rxDelete
  | rxRead
  | rxStatus
  | rxTimeout
  | rxChanged
  | setTimer
  | startTimer
  | rxFilterId
  | errFlag
  | rtrFlag
  | effFlag
  deriving DecidableEq, Repr

/-- The `format` column of spec/opcode_table.json: which field a row's word stands in. -/
inductive Format where
  /-- the `op` field of a request (rule R44) -/
  | cmd
  /-- the `opcode` field of the BCM header (rule R56) -/
  | bcmOpcode
  /-- the `flags` field of the BCM header (rule R57) -/
  | bcmFlag
  /-- the identifier word of a frame (rule R58) -/
  | canFlag
  deriving DecidableEq, Repr

/-- A word of the table with its format. A `cmd` word is the 3-bit `op`, zero-extended. -/
structure InstrWord where
  fmt  : Format
  bits : Word32
  deriving DecidableEq, Repr

/-- Why a word names no row of the table. -/
inductive DecodeReject where
  /-- a `cmd` word with a bit set above bit 2: `op` is 3 bits wide (rule R44) -/
  | opTooWide
  /-- none of the nine values of rule R56 -/
  | unnamedOpcode
  /-- none of the three values of rule R57 -/
  | unnamedBcmFlag
  /-- none of the three values of rule R58 -/
  | unnamedCanFlag
  deriving DecidableEq, Repr

/-- `CanFrame` (rule R17), with the payload in the two-field form of the boundary (rule R19). -/
structure CanFrame where
  identifier  : Word32
  flags       : Flags3
  payloadLen  : BitVec 8
  payloadData : Vector Byte 8
  deriving DecidableEq, Repr

/-- `BcmMessage` (rule R20). There is no `nframes` field: the count is the length of `frames` (rule R21). -/
structure BcmMessage where
  opcode      : Word32
  flags       : Word32
  repeatCount : Word32
  interval1   : Binary64
  interval2   : Binary64
  identifier  : Word32
  frames      : List CanFrame
  deriving DecidableEq, Repr

/-- The operand fields of a request, all operations' together (rule R23); those that the selected operation does not take are
ignored (rule R15). -/
structure Operands where
  /-- FRAME.ENC -/
  frame   : CanFrame
  /-- FRAME.DEC, BCM.DEC -/
  buf     : Buffer
  /-- FRAME.EQ -/
  frameA  : CanFrame
  /-- FRAME.EQ -/
  frameB  : CanFrame
  /-- IVAL.TOWIRE -/
  seconds : Binary64
  /-- IVAL.FROMWIRE -/
  sec     : SInt
  /-- IVAL.FROMWIRE -/
  usec    : SInt
  /-- BCM.ENC -/
  msg     : BcmMessage
  /-- BCM.EQ -/
  msgA    : BcmMessage
  /-- BCM.EQ -/
  msgB    : BcmMessage
  deriving DecidableEq, Repr

/-- The closed list of error kinds (rule R103). -/
inductive ErrorKind where
  | lengthError
  | payloadTooLarge
  | frameCountMismatch
  deriving DecidableEq, Repr

/-- The result fields of each operation when `err = 0` (rule R23). -/
inductive Output where
  | frameEnc (buf : Buffer) (effForced : Bool)
  | frameDec (frame : CanFrame)
  | ivalToWire (sec usec : SInt)
  | ivalFromWire (seconds : Binary64)
  | bcmEnc (buf : Buffer) (effForced : List Bool)
  | bcmDec (msg : BcmMessage)
  | frameEq (equal : Bool)
  | bcmEq (equal : Bool)
  deriving DecidableEq, Repr

/-- A result: the output of a success, or an error kind and nothing else (rules R16, R108, R110). -/
inductive Result where
  | ok (out : Output)
  | error (kind : ErrorKind)
  deriving DecidableEq, Repr

end Sys2Proof
end

