-- ==== Sys2Proof/Config.lean ====
section
/-! DEFINITION. What is fixed for the life of an instance of the block (00_scope rules R5 to R7, 10_state rule R25), and the free
values the spec leaves unspecified. Configuration is never machine state (rule R25). -/

namespace Sys2Proof

/-- `IVAL_W` (rule R5), the input `cfg_ival_w` (rule R25). -/
inductive IvalWidth where
  | w32
  | w64
  deriving DecidableEq, Repr

/-- `BYTE_ORDER` (rule R6), the input `cfg_big_endian` (rule R25). -/
inductive ByteOrder where
  | little
  | big
  deriving DecidableEq, Repr

/-- The floating-point arithmetic as a field of the configuration (rule R78, 93_implementation_defined U14). -/
structure FloatArith where
  fadd  : Binary64 → Binary64 → Binary64
  fsub  : Binary64 → Binary64 → Binary64
  fmul  : Binary64 → Binary64 → Binary64
  fdiv  : Binary64 → Binary64 → Binary64
  /-- `float(i)` (rule R11) -/
  ofInt : Int → Binary64
  /-- `trunc(x)` (rule R11) -/
  trunc : Binary64 → Int

/-- The parameters of an instance. -/
structure Config where
  ivalW     : IvalWidth
  byteOrder : ByteOrder
  /-- `BUF_MAX` (rule R7, OPEN): `none` takes buffers as unbounded finite sequences -/
  bufMax    : Option Nat
  arith     : FloatArith

/-- `FRAME_SIZE` (rule R7). -/
abbrev Config.frameSize : Nat := 16
/-- `PAYLOAD_MAX` (rule R7). -/
abbrev Config.payloadMax : Nat := 8
/-- `HDR_SIZE` for `IVAL_W = 32` (rule R7). -/
abbrev Config.hdrSize : Nat := 40
/-- `SFF_MAX` (rule R7). -/
abbrev Config.sffMax : Word32 := 0x7FF#32
/-- `ID_MASK` (rule R7). -/
abbrev Config.idMask : Word32 := 0x1FFFFFFF#32
/-- `FLAG_MASK` (rule R7). -/
abbrev Config.flagMask : Word32 := 0xE0000000#32
/-- `USEC_PER_SEC` as the exact binary64 1000000.0 (rules R7, R78). -/
abbrev Config.usecPerSec : Binary64 := 0x412E848000000000#64

/-- Which interval of a message (rule R51). -/
inductive IntervalSlot where
  | first
  | second
  deriving DecidableEq, Repr

/-- Which binary operation of `FloatArith` (rule R78). -/
inductive FloatOp where
  | add
  | mul
  | div
  deriving DecidableEq, Repr

/-- FREE VALUE (log 6): `sec` and `usec` of IVAL.TOWIRE outside its domain "may be any values" (rule R88). A function of the
operand, because every result is a function of the operand record (rule R13). -/
opaque Config.freeToWire : Binary64 → SInt × SInt

/-- FREE VALUE (log 6): the two fields of an interval of BCM.ENC outside the domain are unspecified (rule R96 b). A function of
the slot and of the whole operand message (rule R13). -/
opaque Config.freeBcmInterval : IntervalSlot → BcmMessage → SInt × SInt

/-- FREE VALUE (log 15): an arithmetic operation on an operand that is not finite, or a division by zero. Rule R78 states the
operations on finite operands only, and no operation of the block applies them otherwise (rules R87, R88). -/
opaque Config.freeArith : FloatOp → Binary64 → Binary64 → Binary64

/-- FREE VALUE (log 15): `trunc` of a `Float` that is not finite (rule R11 states it for finite operands). -/
opaque Config.freeTrunc : Binary64 → Int

end Sys2Proof
end

