-- ==== Sys2Proof/Machine/Binary64.lean ====
section
/-! DEFINITION. IEEE 754 binary64 with roundTiesToEven (41_interval rules R78, R89; 00_scope rule R11). Every operation computes its
exact result as a fraction and rounds once, in `round`. Magnitudes are counted in units of 2^-1074, the least subnormal. -/

namespace Sys2Proof.Binary64

/-- Bit 63 (rule R78). -/
def sign (x : Binary64) : Bool := x.getLsbD 63

/-- Bits 62 to 52 (rule R78). -/
def expo (x : Binary64) : Nat := (x.extractLsb' 52 11).toNat

/-- Bits 51 to 0 (rule R78). -/
def frac (x : Binary64) : Nat := (x.extractLsb' 0 52).toNat

/-- Neither an infinity nor a NaN. -/
def isFinite (x : Binary64) : Bool := expo x != 2047

def isNaN (x : Binary64) : Bool := expo x == 2047 && frac x != 0

/-- The magnitude of a finite `Float` in units of 2^-1074: the subnormals count their fraction, the normals have the hidden bit. -/
def mag (x : Binary64) : Nat :=
  if expo x = 0 then frac x else (2 ^ 52 + frac x) <<< (expo x - 1)

/-- The value of a finite `Float` in units of 2^-1074. -/
def units (x : Binary64) : Int := if sign x then -(mag x : Int) else mag x

/-- The unit 1.0 counted in units of 2^-1074. -/
def one : Nat := 1 <<< 1074

/-- The number of low bits that `num / den` loses to a significand of 53 bits. -/
def shiftOf (num den : Nat) : Nat := (num / den).log2 - 52

/-- The nearest integer to `num / den`, ties to the even one. -/
def nearestEven (num den : Nat) : Nat :=
  let q := num / den
  let r := num % den
  if den < 2 * r ∨ (2 * r = den ∧ q % 2 = 1) then q + 1 else q

/-- The exponent and fraction bits of the `Float` nearest to `num / den` units, ties to even; a magnitude beyond the largest
finite one rounds to infinity. A carry out of the significand moves into the exponent field by itself. -/
def roundMag (num den : Nat) : Nat :=
  let k := shiftOf num den
  min (k * 2 ^ 52 + nearestEven num (den <<< k)) (2047 * 2 ^ 52)

/-- The `Float` with the given sign and exponent-and-fraction bits. -/
def pack (neg : Bool) (m : Nat) : Binary64 :=
  (BitVec.ofBool neg ++ BitVec.ofNat 63 m)

/-- roundTiesToEven of `num / den` units of 2^-1074, with the sign `neg` (rule R78). -/
def round (neg : Bool) (num den : Nat) : Binary64 := pack neg (roundMag num den)

/-- The negation of `x`: its sign bit inverted. -/
def neg (x : Binary64) : Binary64 := x ^^^ (1#64 <<< 63)

/-- `fadd` (rules R11, R78). An exact zero sum is `+0`, but for the sum of two negative zeros. -/
def fadd (a b : Binary64) : Binary64 :=
  if isFinite a && isFinite b then
    let t := units a + units b
    round (if t = 0 then sign a && sign b else decide (t < 0)) t.natAbs 1
  else Config.freeArith .add a b

/-- `fsub` (rules R11, R78): the sum with the negated operand. -/
def fsub (a b : Binary64) : Binary64 := fadd a (neg b)

/-- `fmul` (rules R11, R78). -/
def fmul (a b : Binary64) : Binary64 :=
  if isFinite a && isFinite b then round (sign a != sign b) (mag a * mag b) one
  else Config.freeArith .mul a b

/-- `fdiv` (rules R11, R78). -/
def fdiv (a b : Binary64) : Binary64 :=
  if isFinite a && isFinite b && mag b != 0 then round (sign a != sign b) (mag a * one) (mag b)
  else Config.freeArith .div a b

/-- `float(i)` (rules R11, R78). -/
def ofInt (i : Int) : Binary64 := round (decide (i < 0)) (i.natAbs * one) 1

/-- `trunc(x)`: toward zero, `trunc(-0) = 0` (rule R11). -/
def trunc (x : Binary64) : Int :=
  if isFinite x then (if sign x then -((mag x / one : Nat) : Int) else ((mag x / one : Nat) : Int))
  else Config.freeTrunc x

/-- `feq`, IEEE 754 equality (rule R89): a NaN equals nothing, `+0` equals `-0`, and otherwise equal values have equal patterns. -/
def feq (a b : Binary64) : Bool :=
  !isNaN a && !isNaN b && (a == b || (a <<< 1 == 0 && b <<< 1 == 0))

/-- The arithmetic of this hardware (rules R7, R78). -/
def arith : FloatArith where
  fadd := fadd
  fsub := fsub
  fmul := fmul
  fdiv := fdiv
  ofInt := ofInt
  trunc := trunc

end Sys2Proof.Binary64
end

