-- ==== Sys2Proof/Machine/Buffer.lean ====
section
/-! DEFINITION. Buffers and the four field-access primitives (20_memory rules R28 to R37), for both byte orders. -/

namespace Sys2Proof.Buffer

/-- `zeros(n)` (rule R11). -/
def zeros (n : Nat) : Buffer := List.replicate n 0#8

/-- `buf[off .. off + n - 1]` (rule R10). -/
def slice (buf : Buffer) (off n : Nat) : Buffer := (buf.drop off).take n

/-- The byte at an offset (rule R10). Every use lies inside the buffer (log 25). -/
def byteAt (buf : Buffer) (off : Nat) : Byte := buf.getD off 0#8

/-- `buf` with `bytes` standing at offset `off` in place of what stood there; every other byte as it was. -/
def overwrite (buf : Buffer) (off : Nat) (bytes : List Byte) : Buffer :=
  buf.take off ++ bytes ++ buf.drop (off + bytes.length)

/-- The bytes of a sequence as one number, the first byte least significant (rule R33, little). -/
def toNatLE : List Byte → Nat
  | [] => 0
  | x :: xs => x.toNat + 256 * toNatLE xs

/-- The `n` low bytes of `v`, the least significant first (rule R34, little). -/
def ofNatLE : Nat → Nat → List Byte
  | 0, _ => []
  | n + 1, v => BitVec.ofNat 8 v :: ofNatLE n (v / 256)

/-- The bytes of a field in the order in which `BYTE_ORDER` stores them, given least significant first (rule R37). The same
function takes stored bytes back to least significant first. -/
def ordered (o : ByteOrder) (bytes : List Byte) : List Byte :=
  match o with
  | .little => bytes
  | .big => bytes.reverse

/-- `MemRead(buf, off, n)` (rule R33). -/
def memRead (o : ByteOrder) (buf : Buffer) (off n : Nat) : Nat :=
  toNatLE (ordered o (slice buf off n))

/-- `MemWrite(buf, off, n, v)` (rule R34). -/
def memWrite (o : ByteOrder) (buf : Buffer) (off n v : Nat) : Buffer :=
  overwrite buf off (ordered o (ofNatLE n v))

/-- `MemReadS(buf, off, n)` (rule R35). -/
def memReadS (o : ByteOrder) (buf : Buffer) (off n : Nat) : Int :=
  let u := memRead o buf off n
  if u < 2 ^ (8 * n - 1) then (u : Int) else (u : Int) - 2 ^ (8 * n)

/-- `MemWriteS(buf, off, n, v)` (rule R36). -/
def memWriteS (o : ByteOrder) (buf : Buffer) (off n : Nat) (v : Int) : Buffer :=
  memWrite o buf off n (v % 2 ^ (8 * n)).toNat

end Sys2Proof.Buffer
end

