-- ==== Sys2Proof/Machine/Operands.lean ====
section
/-! DEFINITION. The operand forms: a payload carried as length and data (10_state rule R19), a flag set and its place in the
identifier word (rule R18), an interval and its domain (41_interval rule R79), and the conversions of the Interval Codec. -/

namespace Sys2Proof

/-- The payload as the boundary carries it: the first `min(payload_len, 8)` bytes of the data (rule R19). -/
def CanFrame.payload (f : CanFrame) : List Byte := f.payloadData.toList.take f.payloadLen.toNat

/-- The test `len(frame.payload) > 8` (rules R69, R105). -/
def CanFrame.tooLong (f : CanFrame) : Bool := decide (Config.payloadMax < f.payloadLen.toNat)

/-- `flagword(flags) = flags << 29` (rule R18). -/
def flagWord (flags : Flags3) : Word32 := flags.setWidth 32 <<< 29

/-- `word[31:29]` (rule R47). -/
def flagsOfWord (word : Word32) : Flags3 := ((word &&& Config.flagMask) >>> 29).setWidth 3

/-- `word & 0x1FFFFFFF` (rule R47). -/
def identifierOfWord (word : Word32) : Word32 := word &&& Config.idMask

namespace Interval

/-- The domain of IVAL.TOWIRE for `IVAL_W = 32` (rule R79). -/
def inDomain (a : FloatArith) (x : Binary64) : Bool :=
  Binary64.isFinite x && decide (-2 ^ 31 ≤ a.trunc x) && decide (a.trunc x < 2 ^ 31)

/-- `toWire` on an operand of the domain, in the order of rule R80. The halves are narrowed to `SINT`, which drops nothing in this
hardware's arithmetic (rules R79, R82; log 26). -/
def toWire (a : FloatArith) (x : Binary64) : SInt × SInt :=
  let sec := a.trunc x
  let d := a.fsub x (a.ofInt sec)
  let p := a.fmul d Config.usecPerSec
  let usec := a.trunc p
  (BitVec.ofInt 32 sec, BitVec.ofInt 32 usec)

/-- `fromWire`, in the order of rule R85: the division, then the addition. -/
def fromWire (a : FloatArith) (sec usec : SInt) : Binary64 :=
  let q := a.fdiv (a.ofInt usec.toInt) Config.usecPerSec
  a.fadd (a.ofInt sec.toInt) q

/-- `towire` where the domain ends: the given free value outside it (rules R88, R96 b; log 6). -/
def toWireOr (a : FloatArith) (free : SInt × SInt) (x : Binary64) : SInt × SInt :=
  if inDomain a x then toWire a x else free

end Interval

/-- A message's interval by its slot. -/
def BcmMessage.interval (m : BcmMessage) : IntervalSlot → Binary64
  | .first => m.interval1
  | .second => m.interval2

/-- The wire pair of an interval of a message given to BCM.ENC (rules R93, R96 b). -/
def BcmMessage.wirePair (a : FloatArith) (m : BcmMessage) (slot : IntervalSlot) : SInt × SInt :=
  Interval.toWireOr a (Config.freeBcmInterval slot m) (m.interval slot)

end Sys2Proof
end

