-- ==== Sys2Proof/Machine/Flags.lean ====
section
/-! DEFINITION. The status outputs and flag rules: normalization (40_frame rule R68), `eff_forced` (10_state rule R24), the error
codes (60_exceptions rule R107), and the named bits of 30_encoding rules R57 and R58. -/

namespace Sys2Proof

/-- `flags[2]` (rule R18). -/
def CanFrame.eff (f : CanFrame) : Bool := f.flags.getLsbD 2
/-- `flags[1]` (rule R18). -/
def CanFrame.rtr (f : CanFrame) : Bool := f.flags.getLsbD 1
/-- `flags[0]` (rule R18). -/
def CanFrame.err (f : CanFrame) : Bool := f.flags.getLsbD 0

/-- `forced(f)` (rule R68): the identifier exceeds 0x7FF and EFF is clear. -/
def CanFrame.forced (f : CanFrame) : Bool := Config.sffMax.ult f.identifier && !f.eff

/-- The flags that the encoder writes: `flags | (forced << 2)` (rule R69). -/
def CanFrame.wireFlags (f : CanFrame) : Flags3 := f.flags ||| ((BitVec.ofBool f.forced).setWidth 3 <<< 2)

/-- `norm(f)` (rule R68). -/
def CanFrame.norm (f : CanFrame) : CanFrame := { f with flags := f.wireFlags }

/-- The `err` code of an error kind (rule R107). -/
def ErrorKind.code : ErrorKind → BitVec 2
  | .lengthError => 1#2
  | .payloadTooLarge => 2#2
  | .frameCountMismatch => 3#2

/-- The `err` field of a result (rules R16, R107). -/
def Result.err : Result → BitVec 2
  | .ok _ => 0#2
  | .error k => k.code

/-- The `eff_forced` output, one Bool per encoded frame; absent from the other six operations (rule R24). -/
def Output.effForced : Output → Option (List Bool)
  | .frameEnc _ e => some [e]
  | .bcmEnc _ es => some es
  | .frameDec _ => none
  | .ivalToWire _ _ => none
  | .ivalFromWire _ => none
  | .bcmDec _ => none
  | .frameEq _ => none
  | .bcmEq _ => none

/-- A named BCM flag bit is set when `flags & mask = mask` (rule R57). -/
def BcmMessage.hasFlag (m : BcmMessage) (mask : Word32) : Bool := m.flags &&& mask == mask

end Sys2Proof
end

