-- ==== Sys2Proof/WellFormed.lean ====
section
/-! DEFINITION. Which words and which values of the records are well formed: the spec's terms valid and normalized (10_state rule
R17, 42_bcm rule R91), and the reserved values of 30_encoding rule R65. No meaning rests on these checks: the block gives the
reserved values an effect of their own. -/

namespace Sys2Proof

/-- The nine opcode values of rule R56. -/
def bcmOpcodes : List Word32 := [1#32, 2#32, 3#32, 5#32, 6#32, 7#32, 10#32, 11#32, 12#32]

/-- The three flag masks of rule R57. -/
def bcmFlagMasks : List Word32 := [0x1#32, 0x2#32, 0x20#32]

/-- The three flag masks of rule R58. -/
def canFlagMasks : List Word32 := [0x20000000#32, 0x40000000#32, 0x80000000#32]

/-- A word of the table is well formed when it is a word of its format's table (rules R44, R56, R57, R58). -/
def InstrWord.wf (w : InstrWord) : Bool :=
  match w.fmt with
  | .cmd => decide (w.bits.toNat < 8)
  | .bcmOpcode => bcmOpcodes.contains w.bits
  | .bcmFlag => bcmFlagMasks.contains w.bits
  | .canFlag => canFlagMasks.contains w.bits

namespace CanFrame

/-- The identifier is legal (rules R17, R59). -/
def idLegal (f : CanFrame) : Bool := f.identifier.ule Config.idMask

/-- A frame is valid (rule R17). -/
def valid (f : CanFrame) : Bool := f.idLegal && !f.tooLong

/-- A frame is normalized (rule R17). -/
def normalized (f : CanFrame) : Bool := f.valid && (f.identifier.ule Config.sffMax || f.eff)

/-- The data bytes at and above the declared length are zero, as on output (rule R19). -/
def padded (f : CanFrame) : Bool :=
  (List.finRange 8).all fun i => decide (i.val < f.payloadLen.toNat) || f.payloadData[i] == 0#8

end CanFrame

namespace BcmMessage

/-- The opcode is one of the nine of rule R56. -/
def opcodeNamed (m : BcmMessage) : Bool := bcmOpcodes.contains m.opcode

/-- Both intervals are in the domain of rule R79. -/
def intervalsInDomain (a : FloatArith) (m : BcmMessage) : Bool :=
  Interval.inDomain a m.interval1 && Interval.inDomain a m.interval2

/-- Every frame is valid (rule R91). -/
def framesValid (m : BcmMessage) : Bool := m.frames.all CanFrame.valid

/-- The number of frames fits the `nframes` field (rules R91, R96 d). -/
def countFits (m : BcmMessage) : Bool := decide (m.frames.length < 2 ^ 32)

end BcmMessage

/-- The buffer length is within `BUF_MAX` (rules R7, R30). -/
def Config.admits (c : Config) (len : Nat) : Bool :=
  match c.bufMax with
  | none => true
  | some n => decide (len ≤ n)

/-- A message is valid (rule R91). -/
def BcmMessage.valid (c : Config) (m : BcmMessage) : Bool :=
  m.opcodeNamed && m.intervalsInDomain c.arith && m.framesValid && m.countFits &&
    c.admits (Config.hdrSize + Config.frameSize * m.frames.length)

end Sys2Proof
end

