-- ==== Sys2Proof/Decode.lean ====
section
/-! DEFINITION. The decoder of the select codes and constants, and after it the encoder (30_encoding rules R44, R56 to R58). -/

namespace Sys2Proof

/-- The eight select codes, all in use (rule R44). -/
def decodeOp (op : BitVec 3) : Instr :=
  match op.toNat with
  | 0 => .frameEnc
  | 1 => .frameDec
  | 2 => .ivalToWire
  | 3 => .ivalFromWire
  | 4 => .bcmEnc
  | 5 => .bcmDec
  | 6 => .frameEq
  | _ => .bcmEq

/-- The nine opcode values (rule R56). -/
def decodeOpcode (w : Word32) : Except DecodeReject Instr :=
  match w.toNat with
  | 1 => .ok .txSetup
  | 2 => .ok .txDelete
  | 3 => .ok .txRead
  | 5 => .ok .rxSetup
  | 6 => .ok .rxDelete
  | 7 => .ok .rxRead
  | 10 => .ok .rxStatus
  | 11 => .ok .rxTimeout
  | 12 => .ok .rxChanged
  | _ => .error .unnamedOpcode

/-- The three BCM flag bits, each alone in its word (rule R57). -/
def decodeBcmFlag (w : Word32) : Except DecodeReject Instr :=
  if w = 0x1#32 then .ok .setTimer
  else if w = 0x2#32 then .ok .startTimer
  else if w = 0x20#32 then .ok .rxFilterId
  else .error .unnamedBcmFlag

/-- The three CAN flag bits, each alone in its word (rule R58). -/
def decodeCanFlag (w : Word32) : Except DecodeReject Instr :=
  if w = 0x20000000#32 then .ok .errFlag
  else if w = 0x40000000#32 then .ok .rtrFlag
  else if w = 0x80000000#32 then .ok .effFlag
  else .error .unnamedCanFlag

/-- Total on every word of every format; a word of no row is rejected by name. -/
def decode (w : InstrWord) : Except DecodeReject Instr :=
  match w.fmt with
  | .cmd => if w.bits.toNat < 8 then .ok (decodeOp (w.bits.setWidth 3)) else .error .opTooWide
  | .bcmOpcode => decodeOpcode w.bits
  | .bcmFlag => decodeBcmFlag w.bits
  | .canFlag => decodeCanFlag w.bits

/-- The word of an instruction, from the tables of rules R44, R56, R57 and R58. -/
def encode : Instr → InstrWord
  | .frameEnc => ⟨.cmd, 0b000⟩
  | .frameDec => ⟨.cmd, 0b001⟩
  | .ivalToWire => ⟨.cmd, 0b010⟩
  | .ivalFromWire => ⟨.cmd, 0b011⟩
  | .bcmEnc => ⟨.cmd, 0b100⟩
  | .bcmDec => ⟨.cmd, 0b101⟩
  | .frameEq => ⟨.cmd, 0b110⟩
  | .bcmEq => ⟨.cmd, 0b111⟩
  | .txSetup => ⟨.bcmOpcode, 1⟩
  | .txDelete => ⟨.bcmOpcode, 2⟩
  | .txRead => ⟨.bcmOpcode, 3⟩
  | .rxSetup => ⟨.bcmOpcode, 5⟩
  | .rxDelete => ⟨.bcmOpcode, 6⟩
  | .rxRead => ⟨.bcmOpcode, 7⟩
  | .rxStatus => ⟨.bcmOpcode, 10⟩
  | .rxTimeout => ⟨.bcmOpcode, 11⟩
  | .rxChanged => ⟨.bcmOpcode, 12⟩
  | .setTimer => ⟨.bcmFlag, 0x00000001⟩
  | .startTimer => ⟨.bcmFlag, 0x00000002⟩
  | .rxFilterId => ⟨.bcmFlag, 0x00000020⟩
  | .errFlag => ⟨.canFlag, 0x20000000⟩
  | .rtrFlag => ⟨.canFlag, 0x40000000⟩
  | .effFlag => ⟨.canFlag, 0x80000000⟩

/-- The `mask` column of the table: the bits of the field that a row fixes. -/
def rowMask (i : Instr) : Word32 :=
  match (encode i).fmt with
  | .cmd => 0x7#32
  | .bcmOpcode => 0xFFFFFFFF#32
  | .bcmFlag => (encode i).bits
  | .canFlag => (encode i).bits

/-- A field's word holds a row's constant: `word & mask = match` (the table's note to rules R57 and R58). -/
def rowHolds (i : Instr) (word : Word32) : Bool := word &&& rowMask i == (encode i).bits

/-- Is the word one that this format's decoder takes? -/
def accepts (fmt : Format) (bits : Word32) : Bool :=
  match decode ⟨fmt, bits⟩ with
  | .ok _ => true
  | .error _ => false

/-- The table gives its formats no distinguishing bits: a row of one byte is a `cmd` word, a wider one a 32-bit field's word. The
32-bit formats are tried in the table's order, the first that takes the word wins, and a word that none takes stays an opcode
word, which the decoder rejects (log 4). -/
def tableWord (nbits w : Nat) : InstrWord :=
  let bits := BitVec.ofNat 32 w
  if nbits ≤ 8 then ⟨.cmd, bits⟩
  else if accepts .bcmOpcode bits then ⟨.bcmOpcode, bits⟩
  else if accepts .bcmFlag bits then ⟨.bcmFlag, bits⟩
  else if accepts .canFlag bits then ⟨.canFlag, bits⟩
  else ⟨.bcmOpcode, bits⟩

/-- The instruction that the decoder reads from a row's word. -/
def decodeTableWord (nbits w : Nat) : Option Instr :=
  match decode (tableWord nbits w) with
  | .ok i => some i
  | .error _ => none

end Sys2Proof
end

