-- ==== Sys2Proof/Machine/State.lean ====
section
/-! DEFINITION. The state: the records at the block's boundary. The block itself keeps nothing between operations (10_state rules
R13, R14, R26); log 1. -/

namespace Sys2Proof.Machine

/-- What the host presents in one event: the word that selects, and the operand record presented with it. A request of the block
is a `cmd` word with its operand record (rule R15); a word of another format is the host's own step of putting a constant of the
tables into the operand record (log 3). `none` leaves the operand record as the host holds it. -/
structure Input where
  word     : InstrWord
  operands : Option Operands
  deriving DecidableEq, Repr

/-- The boundary as data. -/
structure State where
  /-- the operand record that the host holds at the boundary (rules R15, R23, R125) -/
  operands : Operands
  /-- the host's sequence of requests not yet served, oldest first (rules R14, R124) -/
  inputs   : List Input
  /-- the results delivered, oldest first (rules R16, R124) -/
  results  : List Result
  deriving DecidableEq, Repr

/-- The block has no faults: its three error kinds are results, after which it goes on serving requests (rules R108, R111; log 18).
Nobody raises one; safe. -/
inductive Fault where
  deriving DecidableEq, Repr

/-- Why the model gives no next state. -/
inductive Refusal where
  /-- exec: an instruction without a meaning yet; safe. No arm answers it. -/
  | notModelled (mnemonic : String)
  /-- BCM.ENC of 2^32 frames or more, none with too long a payload: the behaviour is unspecified (rule R96 d, U6; log 7); safe. -/
  | frameListTooLong
  /-- FRAME.ENC, FRAME.DEC, BCM.ENC, BCM.DEC: a buffer longer than a `BUF_MAX` that the configuration sets (rule R96 d, U6; log 5);
  safe. This hardware's configuration sets none. -/
  | bufferAboveMax
  /-- IVAL.TOWIRE, IVAL.FROMWIRE, BCM.ENC, BCM.DEC under a configuration with `IVAL_W = 64`, which a model refuses (rule R5, U5;
  log 17); safe. This hardware's configuration is 32. -/
  | intervalWidth64
  /-- step: the host's word names no row of the tables (log 24); safe. No request of the block has such a word (rule R44). -/
  | unnamedWord (reason : DecodeReject)
  deriving DecidableEq, Repr

/-- The zero frame: the operand value before the host presents one (log 2). -/
def zeroFrame : CanFrame where
  identifier := 0#32
  flags := 0#3
  payloadLen := 0#8
  payloadData := #v[0#8, 0#8, 0#8, 0#8, 0#8, 0#8, 0#8, 0#8]

/-- The zero message (log 2). -/
def zeroMessage : BcmMessage where
  opcode := 0#32
  flags := 0#32
  repeatCount := 0#32
  interval1 := 0#64
  interval2 := 0#64
  identifier := 0#32
  frames := []

/-- The zero operand record (log 2). -/
def zeroOperands : Operands where
  frame := zeroFrame
  buf := []
  frameA := zeroFrame
  frameB := zeroFrame
  seconds := 0#64
  sec := 0#32
  usec := 0#32
  msg := zeroMessage
  msgA := zeroMessage
  msgB := zeroMessage

/-- Right after reset: no request made, no result pending (rules R27, R119, R120). -/
def State.reset : State where
  operands := zeroOperands
  inputs := []
  results := []

end Sys2Proof.Machine
end

