-- ==== Sys2Proof/Machine/Ops.lean ====
section
/-! DEFINITION. The shared operations: delivering a result, raising an error (60_exceptions rule R108), the checks on the
configuration, and the host's steps on the operand record. -/

namespace Sys2Proof

/-- The configuration of this hardware: IVAL_W = 32, little-endian, buffers unbounded, binary64 with roundTiesToEven
(00_scope rules R5 to R7, 10_state rule R25; logs 5, 14, 17). -/
def Config.hardware : Config where
  ivalW := .w32
  byteOrder := .little
  bufMax := none
  arith := Binary64.arith

end Sys2Proof

namespace Sys2Proof.Machine

/-- A step's outcome. -/
abbrev Outcome := Host.Outcome State Fault Refusal

/-- The state with one more result delivered. -/
def State.deliver (s : State) (r : Result) : State := { s with results := s.results ++ [r] }

/-- The state with another operand record at the boundary. -/
def State.withOperands (s : State) (o : Operands) : State := { s with operands := o }

/-- The state with the frame operand of FRAME.ENC changed. -/
def State.mapFrame (s : State) (g : CanFrame → CanFrame) : State :=
  { s with operands := { s.operands with frame := g s.operands.frame } }

/-- The state with the message operand of BCM.ENC changed. -/
def State.mapMsg (s : State) (g : BcmMessage → BcmMessage) : State :=
  { s with operands := { s.operands with msg := g s.operands.msg } }
/-- Deliver one result and go on (rules R16, R40). -/
def respond (r : Result) (s : State) : Outcome := .next (s.deliver r)

/-- `raise <Error>`: taking an exception, as this block does it (rule R108). The operation ends; its result is the error kind and
nothing else (rule R110); nothing else changes. There is nothing to return from (rule R111). -/
def raise (e : ErrorKind) (s : State) : Outcome := respond (.error e) s

/-- Deliver a success (`err <- 0`). -/
def succeed (out : Output) (s : State) : Outcome := respond (.ok out) s

/-- Go on only where the spec defines the interval width: IVAL_W = 64 is refused (rule R5, U5). -/
def guardWidth (c : Config) (k : Outcome) : Outcome :=
  match c.ivalW with
  | .w32 => k
  | .w64 => .refused .intervalWidth64

/-- Go on only with a buffer within `BUF_MAX` (rules R7, R96 d, U6). -/
def guardBuffer (c : Config) (len : Nat) (k : Outcome) : Outcome :=
  if c.admits len then k else .refused .bufferAboveMax

/-- The host's own step of putting an opcode constant into the message operand (rule R56; log 3). -/
def stageOpcode (value : Word32) (s : State) : Outcome :=
  .next (s.mapMsg fun m => { m with opcode := value })

/-- The host's own step of setting a BCM flag bit in the message operand (rule R57; log 3). -/
def stageBcmFlag (mask : Word32) (s : State) : Outcome :=
  .next (s.mapMsg fun m => { m with flags := m.flags ||| mask })

/-- The host's own step of setting a CAN flag bit in the frame operand, as programs P1 and P2 of 95_test_vectors take it
(rule R58; log 3). The mask is that of the identifier word. -/
def stageCanFlag (mask : Word32) (s : State) : Outcome :=
  .next (s.mapFrame fun f => { f with flags := f.flags ||| flagsOfWord mask })

end Sys2Proof.Machine
end

