-- ==== Sys2Proof/Machine/Frame.lean ====
section
/-! DEFINITION. The Frame Codec: FRAME.ENC, FRAME.DEC, FRAME.EQ (40_frame_codec). -/

namespace Sys2Proof.Machine

/-- The identifier word that the encoder writes (rules R47, R69, R71). -/
def frameWord (f : CanFrame) : Word32 := f.identifier ||| flagWord f.wireFlags

/-- `frame_enc` for a payload of at most 8 bytes: the 16 bytes of the wire form (rules R46 to R50, R69). -/
def frameBytes (o : ByteOrder) (f : CanFrame) : Buffer :=
  let buf := Buffer.zeros Config.frameSize
  let buf := Buffer.memWrite o buf 0 4 (frameWord f).toNat
  let buf := Buffer.memWrite o buf 4 1 f.payloadLen.toNat
  Buffer.overwrite buf 8 f.payload

/-- `frame_dec` of a 16-byte buffer (rules R47, R63, R64, R72, R73). Data bytes at and above the length are zero (rule R19). -/
def frameFields (o : ByteOrder) (buf : Buffer) : CanFrame :=
  let word := BitVec.ofNat 32 (Buffer.memRead o buf 0 4)
  let n := Buffer.memRead o buf 4 1
  let m := min n Config.payloadMax
  { identifier := identifierOfWord word
    flags := flagsOfWord word
    payloadLen := BitVec.ofNat 8 m
    payloadData := Vector.ofFn fun i => if i.val < m then Buffer.byteAt buf (8 + i.val) else 0#8 }

/-- Structural equality (rule R75); a declared length above 8 compares the lengths and the eight bytes carried (log 13). -/
def frameEqual (a b : CanFrame) : Bool :=
  a.identifier == b.identifier && a.flags == b.flags && a.payloadLen == b.payloadLen && a.payload == b.payload

/-- FRAME.ENC under a configuration (rule R69). -/
def performFrameEnc (c : Config) (s : State) : Outcome :=
  let f := s.operands.frame
  if f.tooLong then raise .payloadTooLarge s
  else guardBuffer c Config.frameSize (succeed (.frameEnc (frameBytes c.byteOrder f) f.forced) s)

/-- FRAME.DEC under a configuration (rule R72). -/
def performFrameDec (c : Config) (s : State) : Outcome :=
  let buf := s.operands.buf
  guardBuffer c buf.length
    (if buf.length ≠ Config.frameSize then raise .lengthError s
     else succeed (.frameDec (frameFields c.byteOrder buf)) s)

/-- FRAME.ENC (rule R69). -/
def execFrameEnc (s : State) : Outcome := performFrameEnc Config.hardware s

/-- FRAME.DEC (rule R72). -/
def execFrameDec (s : State) : Outcome := performFrameDec Config.hardware s

/-- FRAME.EQ (rule R75). -/
def execFrameEq (s : State) : Outcome :=
  succeed (.frameEq (frameEqual s.operands.frameA s.operands.frameB)) s

end Sys2Proof.Machine
end

