-- ==== Sys2Proof/Machine/Bcm.lean ====
section
/-! DEFINITION. The BCM Message Codec: BCM.ENC, BCM.DEC, BCM.EQ (42_bcm_codec), for `IVAL_W = 32`. -/

namespace Sys2Proof.Machine

/-- The 40-byte header (rules R51 to R53, R55, R60 to R62, R93): the fields of `m`, the wire pairs of its two intervals, and the
number of its frames. -/
def bcmHeader (o : ByteOrder) (m : BcmMessage) (pair1 pair2 : SInt × SInt) : Buffer :=
  let buf := Buffer.zeros Config.hdrSize
  let buf := Buffer.memWrite o buf 0 4 m.opcode.toNat
  let buf := Buffer.memWrite o buf 4 4 m.flags.toNat
  let buf := Buffer.memWrite o buf 8 4 m.repeatCount.toNat
  let buf := Buffer.memWriteS o buf 12 4 pair1.1.toInt
  let buf := Buffer.memWriteS o buf 16 4 pair1.2.toInt
  let buf := Buffer.memWriteS o buf 20 4 pair2.1.toInt
  let buf := Buffer.memWriteS o buf 24 4 pair2.2.toInt
  let buf := Buffer.memWrite o buf 28 4 m.identifier.toNat
  Buffer.memWrite o buf 32 4 m.frames.length

/-- The header followed at once by the frames in list order (rules R54, R93). -/
def bcmBytes (c : Config) (m : BcmMessage) : Buffer :=
  bcmHeader c.byteOrder m (m.wirePair c.arith .first) (m.wirePair c.arith .second) ++
    (m.frames.map (frameBytes c.byteOrder)).flatten

/-- The `n` frames that stand one after another from the start of `buf` (rules R31, R97). -/
def chunkFrames (o : ByteOrder) : Nat → Buffer → List CanFrame
  | 0, _ => []
  | n + 1, buf => frameFields o (buf.take Config.frameSize) :: chunkFrames o n (buf.drop Config.frameSize)

/-- The interval whose wire pair stands at an offset (rules R52, R97). -/
def intervalAt (c : Config) (buf : Buffer) (off : Nat) : Binary64 :=
  Interval.fromWire c.arith (BitVec.ofInt 32 (Buffer.memReadS c.byteOrder buf off 4))
    (BitVec.ofInt 32 (Buffer.memReadS c.byteOrder buf (off + 4) 4))

/-- The message of a buffer that has passed the checks of rule R97 (also rule R99). -/
def bcmFields (c : Config) (buf : Buffer) : BcmMessage :=
  let o := c.byteOrder
  { opcode := BitVec.ofNat 32 (Buffer.memRead o buf 0 4)
    flags := BitVec.ofNat 32 (Buffer.memRead o buf 4 4)
    repeatCount := BitVec.ofNat 32 (Buffer.memRead o buf 8 4)
    interval1 := intervalAt c buf 12
    interval2 := intervalAt c buf 20
    identifier := BitVec.ofNat 32 (Buffer.memRead o buf 28 4)
    frames := chunkFrames o (Buffer.memRead o buf 32 4) (buf.drop Config.hdrSize) }

/-- The trailing bytes are exactly the declared number of 16-byte chunks (rules R55, R97, R98, R106). -/
def chunksMatch (o : ByteOrder) (buf : Buffer) : Bool :=
  let r := buf.length - Config.hdrSize
  r % Config.frameSize == 0 && r / Config.frameSize == Buffer.memRead o buf 32 4

/-- Structural equality of two messages (rule R101). -/
def bcmEqual (a b : BcmMessage) : Bool :=
  a.opcode == b.opcode && a.flags == b.flags && a.repeatCount == b.repeatCount &&
    Binary64.feq a.interval1 b.interval1 && Binary64.feq a.interval2 b.interval2 &&
    a.identifier == b.identifier && a.frames.length == b.frames.length &&
    (a.frames.zip b.frames).all fun p => frameEqual p.1 p.2

/-- BCM.ENC under a configuration (rules R93, R95, R96). The frames' payloads are tested first, as in rule R93. -/
def performBcmEnc (c : Config) (s : State) : Outcome :=
  let m := s.operands.msg
  guardWidth c
    (if m.frames.any CanFrame.tooLong then raise .payloadTooLarge s
     else if !m.countFits then .refused .frameListTooLong
     else guardBuffer c (Config.hdrSize + Config.frameSize * m.frames.length)
       (succeed (.bcmEnc (bcmBytes c m) (m.frames.map CanFrame.forced)) s))

/-- BCM.DEC under a configuration (rules R97, R98): the length check comes first. -/
def performBcmDec (c : Config) (s : State) : Outcome :=
  let buf := s.operands.buf
  guardWidth c
    (guardBuffer c buf.length
      (if buf.length < Config.hdrSize then raise .lengthError s
       else if !chunksMatch c.byteOrder buf then raise .frameCountMismatch s
       else succeed (.bcmDec (bcmFields c buf)) s))

/-- BCM.ENC (rule R93). -/
def execBcmEnc (s : State) : Outcome := performBcmEnc Config.hardware s

/-- BCM.DEC (rule R97). -/
def execBcmDec (s : State) : Outcome := performBcmDec Config.hardware s

/-- BCM.EQ (rule R101). -/
def execBcmEq (s : State) : Outcome :=
  succeed (.bcmEq (bcmEqual s.operands.msgA s.operands.msgB)) s

end Sys2Proof.Machine
end

