-- ==== Sys2Proof/Machine/Constants.lean ====
section
/-! DEFINITION. The data rows of the table (30_encoding rules R56, R57, R58). They are data values, not operations: the block
attaches no behaviour to them and passes them through. Their meaning here is the host's own step of putting the constant into its
field of the operand record, where the operations carry it (log 3); no result is delivered. -/

namespace Sys2Proof.Machine

/-- TX_SETUP = 1 in the `opcode` field (rule R56). -/
def execTxSetup (s : State) : Outcome := stageOpcode 1#32 s

/-- TX_DELETE = 2 in the `opcode` field (rule R56). -/
def execTxDelete (s : State) : Outcome := stageOpcode 2#32 s

/-- TX_READ = 3 in the `opcode` field (rule R56). -/
def execTxRead (s : State) : Outcome := stageOpcode 3#32 s

/-- RX_SETUP = 5 in the `opcode` field (rule R56). -/
def execRxSetup (s : State) : Outcome := stageOpcode 5#32 s

/-- RX_DELETE = 6 in the `opcode` field (rule R56). -/
def execRxDelete (s : State) : Outcome := stageOpcode 6#32 s

/-- RX_READ = 7 in the `opcode` field (rule R56). -/
def execRxRead (s : State) : Outcome := stageOpcode 7#32 s

/-- RX_STATUS = 10 in the `opcode` field (rule R56). -/
def execRxStatus (s : State) : Outcome := stageOpcode 10#32 s

/-- RX_TIMEOUT = 11 in the `opcode` field (rule R56). -/
def execRxTimeout (s : State) : Outcome := stageOpcode 11#32 s

/-- RX_CHANGED = 12 in the `opcode` field (rule R56). -/
def execRxChanged (s : State) : Outcome := stageOpcode 12#32 s

/-- SETTIMER = 0x1 in the `flags` field (rule R57). -/
def execSetTimer (s : State) : Outcome := stageBcmFlag 0x1#32 s

/-- STARTTIMER = 0x2 in the `flags` field (rule R57). -/
def execStartTimer (s : State) : Outcome := stageBcmFlag 0x2#32 s

/-- RX_FILTER_ID = 0x20 in the `flags` field (rule R57). -/
def execRxFilterId (s : State) : Outcome := stageBcmFlag 0x20#32 s

/-- ERR = 0x20000000, bit 29 of the identifier word (rule R58). -/
def execErrFlag (s : State) : Outcome := stageCanFlag 0x20000000#32 s

/-- RTR = 0x40000000, bit 30 of the identifier word (rule R58). -/
def execRtrFlag (s : State) : Outcome := stageCanFlag 0x40000000#32 s

/-- EFF = 0x80000000, bit 31 of the identifier word (rule R58). -/
def execEffFlag (s : State) : Outcome := stageCanFlag 0x80000000#32 s

end Sys2Proof.Machine
end

