-- ==== Sys2Proof/Machine/Interval.lean ====
section
/-! DEFINITION. The Interval Codec: IVAL.TOWIRE, IVAL.FROMWIRE (41_interval_codec). -/

namespace Sys2Proof.Machine

/-- IVAL.TOWIRE under a configuration (rule R80); outside the domain the two fields are free values and `err` is 0 (rule R88;
log 6). -/
def performIvalToWire (c : Config) (s : State) : Outcome :=
  let x := s.operands.seconds
  let pair := Interval.toWireOr c.arith (Config.freeToWire x) x
  guardWidth c (succeed (.ivalToWire pair.1 pair.2) s)

/-- IVAL.FROMWIRE under a configuration (rules R85, R86). -/
def performIvalFromWire (c : Config) (s : State) : Outcome :=
  guardWidth c (succeed (.ivalFromWire (Interval.fromWire c.arith s.operands.sec s.operands.usec)) s)

/-- IVAL.TOWIRE (rule R80). -/
def execIvalToWire (s : State) : Outcome := performIvalToWire Config.hardware s

/-- IVAL.FROMWIRE (rule R85). -/
def execIvalFromWire (s : State) : Outcome := performIvalFromWire Config.hardware s

end Sys2Proof.Machine
end

