-- ==== Sys2Proof/Machine/Dispatch.lean ====
section
/-! DEFINITION. One arm per constructor of Instr. -/

namespace Sys2Proof.Machine

def exec (i : Instr) (s : State) : Host.Outcome State Fault Refusal :=
  match i with
  | .frameEnc => Sys2Proof.Machine.execFrameEnc s
  | .frameDec => Sys2Proof.Machine.execFrameDec s
  | .ivalToWire => Sys2Proof.Machine.execIvalToWire s
  | .ivalFromWire => Sys2Proof.Machine.execIvalFromWire s
  | .bcmEnc => Sys2Proof.Machine.execBcmEnc s
  | .bcmDec => Sys2Proof.Machine.execBcmDec s
  | .frameEq => Sys2Proof.Machine.execFrameEq s
  | .bcmEq => Sys2Proof.Machine.execBcmEq s
  | .txSetup => Sys2Proof.Machine.execTxSetup s
  | .txDelete => Sys2Proof.Machine.execTxDelete s
  | .txRead => Sys2Proof.Machine.execTxRead s
  | .rxSetup => Sys2Proof.Machine.execRxSetup s
  | .rxDelete => Sys2Proof.Machine.execRxDelete s
  | .rxRead => Sys2Proof.Machine.execRxRead s
  | .rxStatus => Sys2Proof.Machine.execRxStatus s
  | .rxTimeout => Sys2Proof.Machine.execRxTimeout s
  | .rxChanged => Sys2Proof.Machine.execRxChanged s
  | .setTimer => Sys2Proof.Machine.execSetTimer s
  | .startTimer => Sys2Proof.Machine.execStartTimer s
  | .rxFilterId => Sys2Proof.Machine.execRxFilterId s
  | .errFlag => Sys2Proof.Machine.execErrFlag s
  | .rtrFlag => Sys2Proof.Machine.execRtrFlag s
  | .effFlag => Sys2Proof.Machine.execEffFlag s

end Sys2Proof.Machine
end

