-- ==== Sys2Proof/Machine/Step.lean ====
section
/-! DEFINITION. One step: the block takes the host's oldest request whole and performs it (20_memory rule R40). -/

namespace Sys2Proof.Machine

/-- The state in which a request is performed: it is taken from the host's sequence, and its operand record stands at the
boundary (rules R15, R40). -/
def State.accept (s : State) (inp : Input) (rest : List Input) : State :=
  { s with operands := inp.operands.getD s.operands, inputs := rest }

/-- One step. With no request the block is ready and nothing happens (rules R119, R124; log 19). -/
def step (s : State) : Host.Outcome State Fault Refusal :=
  match s.inputs with
  | [] => .next s
  | inp :: rest =>
    match decode inp.word with
    | .ok i => exec i (s.accept inp rest)
    | .error r => .refused (.unnamedWord r)

/-- The state with a row's word presented by the host as the next request, on the operand record as it stands (log 1). -/
def State.withFetchWord (s : State) (nbits w : Nat) : State :=
  { s with inputs := { word := tableWord nbits w, operands := none } :: s.inputs }

end Sys2Proof.Machine
end

