-- ==== Sys2Proof/Safety.lean ====
section
/-! DEFINITION. The terms in which claims are stated: the wire forms written out from the layout tables of 30_encoding, values of
`Float`s as rationals, what an operation takes, and what a delivered result looks like. None of them is used by a meaning. -/

namespace Sys2Proof.Safety

open Sys2Proof.Machine

/-- The four bytes of a 32-bit field, the least significant first (20_memory rule R33, `BYTE_ORDER = little`). -/
def le32 (w : Word32) : List Byte :=
  [w.extractLsb' 0 8, w.extractLsb' 8 8, w.extractLsb' 16 8, w.extractLsb' 24 8]

/-- The 32-bit field at an offset, the byte at the lowest offset least significant (rule R33). -/
def word32At (buf : Buffer) (off : Nat) : Word32 :=
  (buf.getD (off + 3) 0#8 ++ buf.getD (off + 2) 0#8 ++ buf.getD (off + 1) 0#8 ++ buf.getD off 0#8 : BitVec 32)

/-- When the encoder must set EFF: the identifier exceeds 0x7FF and EFF is clear (40_frame rule R68). -/
def mustForce (f : CanFrame) : Bool := decide (0x7FF < f.identifier.toNat) && !f.flags.getLsbD 2

/-- The frame layout of rule R46, written out for `FRAME.ENC`. -/
def wireFrame (f : CanFrame) : List Byte :=
  le32 (f.identifier ||| (f.flags.setWidth 32 <<< 29) ||| (if mustForce f then 0x80000000#32 else 0#32)) ++
    [f.payloadLen, 0#8, 0#8, 0#8] ++
    List.ofFn (fun i : Fin 8 => if i.val < f.payloadLen.toNat then f.payloadData[i] else 0#8)

/-- The frame layout of rule R46, read field by field. -/
def readFrame (buf : Buffer) : CanFrame :=
  let m := min (buf.getD 4 0#8).toNat 8
  { identifier := word32At buf 0 &&& 0x1FFFFFFF#32
    flags := (word32At buf 0).extractLsb' 29 3
    payloadLen := BitVec.ofNat 8 m
    payloadData := Vector.ofFn fun i => if i.val < m then buf.getD (8 + i.val) 0#8 else 0#8 }

/-- The header layout of rule R51, written out for `BCM.ENC`, with the two interval pairs given. -/
def wireHeader (m : BcmMessage) (pair1 pair2 : SInt × SInt) : List Byte :=
  le32 m.opcode ++ le32 m.flags ++ le32 m.repeatCount ++ le32 pair1.1 ++ le32 pair1.2 ++ le32 pair2.1 ++ le32 pair2.2 ++
    le32 m.identifier ++ le32 (BitVec.ofNat 32 m.frames.length) ++ [0#8, 0#8, 0#8, 0#8]

/-- Structural equality of two frames as rule R75 lists it. -/
def SameFrame (a b : CanFrame) : Prop :=
  a.identifier = b.identifier ∧ a.flags = b.flags ∧ a.payloadLen = b.payloadLen ∧
    ∀ i : Fin 8, i.val < a.payloadLen.toNat → a.payloadData[i] = b.payloadData[i]

/-- The value of a finite `Float`. -/
def value (x : Binary64) : ℚ := (Binary64.units x : ℚ) / 2 ^ 1074

/-- `p` is the result of rounding the exact value `q` once to the nearest `Float`, ties to the one with an even last fraction bit
(41_interval rule R78). -/
def RoundsTo (q : ℚ) (p : Binary64) : Prop :=
  Binary64.isFinite p = true ∧
    ∀ y : Binary64, Binary64.isFinite y = true →
      |value p - q| ≤ |value y - q| ∧ (|value p - q| = |value y - q| → value y = value p ∨ p.getLsbD 0 = false)

/-- The largest finite `Float` and half its unit in the last place, 2^1024 - 2^970: every exact value of a smaller magnitude rounds to
a finite `Float` (rule R78). What rounding gives from there on is not the rule's (log 14). -/
def roundingLimit : ℚ := 2 ^ 1024 - 2 ^ 970

/-- Truncation toward zero of a rational (00_scope rule R11). -/
def ratTrunc (q : ℚ) : Int := if q < 0 then -⌊-q⌋ else ⌊q⌋

/-- The domain of IVAL.TOWIRE in the words of rule R79, for `IVAL_W = 32`. -/
def InDomain (x : Binary64) : Prop :=
  Binary64.isFinite x = true ∧ -2147483649 < value x ∧ value x < 2147483648

/-- One unit in the last place of a finite `Float`. -/
def ulp (x : Binary64) : ℚ := (2 ^ (Binary64.expo x - 1) : ℚ) / 2 ^ 1074

/-- The eight operations of rule R8; the other rows of the table are data values. -/
def isOperation (i : Instr) : Bool := (encode i).fmt == .cmd

/-- Two operand records agree on the fields that an instruction takes (10_state rule R23). A data row takes the record it is put
into. -/
def AgreeOn (i : Instr) (a b : Operands) : Prop :=
  match i with
  | .frameEnc => a.frame = b.frame
  | .frameDec => a.buf = b.buf
  | .ivalToWire => a.seconds = b.seconds
  | .ivalFromWire => a.sec = b.sec ∧ a.usec = b.usec
  | .bcmEnc => a.msg = b.msg
  | .bcmDec => a.buf = b.buf
  | .frameEq => a.frameA = b.frameA ∧ a.frameB = b.frameB
  | .bcmEq => a.msgA = b.msgA ∧ a.msgB = b.msgB
  | .txSetup => a = b
  | .txDelete => a = b
  | .txRead => a = b
  | .rxSetup => a = b
  | .rxDelete => a = b
  | .rxRead => a = b
  | .rxStatus => a = b
  | .rxTimeout => a = b
  | .rxChanged => a = b
  | .setTimer => a = b
  | .startTimer => a = b
  | .rxFilterId => a = b
  | .errFlag => a = b
  | .rtrFlag => a = b
  | .effFlag => a = b

/-- The result of an operation performed alone, right after reset, on an operand record. -/
def answer (i : Instr) (o : Operands) : Option Result :=
  match exec i (State.reset.withOperands o) with
  | .next t => t.results.head?
  | .fault _ => none
  | .refused _ => none

/-- What the host presents when it requests an operation on an operand record. -/
def request (p : Instr × Operands) : Input := { word := encode p.1, operands := some p.2 }

/-- A request to which the spec gives a result: an operation, and for BCM.ENC a frame count that fits the `nframes` field or a
frame that is rejected (rules R95, R96 d). -/
def Answerable (i : Instr) (o : Operands) : Prop :=
  isOperation i = true ∧ (i = .bcmEnc → o.msg.frames.length < 2 ^ 32 ∨ ∃ f ∈ o.msg.frames, 8 < f.payloadLen.toNat)

/-- A safe run: no step of it is refused. Errors are results, not stops (60_exceptions rule R111). -/
def SafeRun (n : Nat) (s : State) : Prop := ∃ t, Sys2Proof.core.run n s = .next t

/-- The shape of the 16 bytes that an encoder writes for a frame (40_frame rule R70). -/
def FrameBytesShaped (b : Buffer) : Prop :=
  b.length = 16 ∧ b.getD 5 0#8 = 0#8 ∧ b.getD 6 0#8 = 0#8 ∧ b.getD 7 0#8 = 0#8 ∧ (b.getD 4 0#8).toNat ≤ 8 ∧
    ∀ k, 8 + (b.getD 4 0#8).toNat ≤ k → k < 16 → b.getD k 0#8 = 0#8

/-- A frame as a decoder produces it (10_state rules R17, R19): a legal identifier, at most 8 bytes, zeros beyond them. -/
def FrameShaped (f : CanFrame) : Prop :=
  f.valid = true ∧ ∀ i : Fin 8, f.payloadLen.toNat ≤ i.val → f.payloadData[i] = 0#8

/-- The shape of a delivered result, whatever request it answers. -/
def ResultShaped : Result → Prop
  | .ok (.frameEnc buf _) => FrameBytesShaped buf
  | .ok (.frameDec f) => FrameShaped f
  | .ok (.bcmEnc buf forced) =>
      buf.length = 40 + 16 * forced.length ∧ word32At buf 32 = BitVec.ofNat 32 forced.length ∧ word32At buf 36 = 0#32 ∧
        ∀ k, k < forced.length → FrameBytesShaped ((buf.drop (40 + 16 * k)).take 16)
  | .ok (.bcmDec m) => m.frames.length < 2 ^ 32 ∧ ∀ f ∈ m.frames, FrameShaped f
  | .ok (.ivalToWire _ _) => True
  | .ok (.ivalFromWire _) => True
  | .ok (.frameEq _) => True
  | .ok (.bcmEq _) => True
  | .error _ => True

/-- The invariant: every result delivered so far has its shape. -/
def ResultsShaped (s : State) : Prop := ∀ r ∈ s.results, ResultShaped r

end Sys2Proof.Safety
end

