-- ==== Sys2Proof/Certificates/Slice0/Obligations.lean ====
section
/-! DEFINITION. The statements for the provers. Each docstring names the rule of spec/ that it formalises. -/

open Sys2Proof Sys2Proof.Machine Sys2Proof.Safety

/-! ## Boundary, decoding, stepping -/

/-- 70_reset section 1 (rules R119, R120): after reset no request has been made and no result is pending. That a step without a
request changes nothing, from any state, is the model's choice (log 19). The operand record after reset is the model's choice
(log 2) and is not stated. -/
def Obligations.ResetLeavesNothingPending : Prop :=
  State.reset.results = [] ∧ State.reset.inputs = [] ∧ ∀ s : State, s.inputs = [] → step s = .next s

/-- 30_encoding section 2 (rule R44): the eight codes of the 3-bit `op` select the eight operations, and none is reserved. That an
`op` is held in a 32-bit word, and that such a word with a bit above bit 2 is rejected, is the model's choice (log 4). -/
def Obligations.OpCodesSelectTheEightOperations : Prop :=
  decode ⟨.cmd, 0⟩ = .ok .frameEnc ∧ decode ⟨.cmd, 1⟩ = .ok .frameDec ∧ decode ⟨.cmd, 2⟩ = .ok .ivalToWire ∧
  decode ⟨.cmd, 3⟩ = .ok .ivalFromWire ∧ decode ⟨.cmd, 4⟩ = .ok .bcmEnc ∧ decode ⟨.cmd, 5⟩ = .ok .bcmDec ∧
  decode ⟨.cmd, 6⟩ = .ok .frameEq ∧ decode ⟨.cmd, 7⟩ = .ok .bcmEq ∧
  ∀ w : Word32, 8 ≤ w.toNat → decode ⟨.cmd, w⟩ = .error .opTooWide

/-- 30_encoding section 6 (the tables of rules R56, R57, R58): which 32-bit words the three constant tables name, with every other
word rejected by name. That a word of a constant is presented alone with its format is the model's choice (logs 3, 4). -/
def Obligations.ConstantTablesNameTheirWords : Prop :=
  (∀ w i, decode ⟨.bcmOpcode, w⟩ = .ok i ↔ (w, i) ∈
    [((1 : Word32), Instr.txSetup), (2, .txDelete), (3, .txRead), (5, .rxSetup), (6, .rxDelete), (7, .rxRead),
     (10, .rxStatus), (11, .rxTimeout), (12, .rxChanged)]) ∧
  (∀ w i, decode ⟨.bcmFlag, w⟩ = .ok i ↔ (w, i) ∈
    [((0x01 : Word32), Instr.setTimer), (0x02, .startTimer), (0x20, .rxFilterId)]) ∧
  (∀ w i, decode ⟨.canFlag, w⟩ = .ok i ↔ (w, i) ∈
    [((0x20000000 : Word32), Instr.errFlag), (0x40000000, .rtrFlag), (0x80000000, .effFlag)])

/-- 30_encoding sections 2 and 6: each row's word decodes to the row, every word that decodes to a row is that row's word, and
decoding succeeds exactly on the well-formed words. -/
def Obligations.DecodeAndEncodeAgree : Prop :=
  (∀ i, decode (encode i) = .ok i) ∧ (∀ w i, decode w = .ok i → w = encode i) ∧
  (∀ w, w.wf = true ↔ ∃ i, decode w = .ok i)

/-- 10_state section 2 and 20_memory section 4 (rules R14, R15, R40): a step takes the host's oldest request whole, with its
operand record, and performs the decoded operation in one event. -/
def Obligations.StepPerformsTheDecodedRequest : Prop :=
  ∀ (s : State) (inp : Input) (rest : List Input) (i : Instr), s.inputs = inp :: rest → decode inp.word = .ok i →
    step s = exec i { s with operands := inp.operands.getD s.operands, inputs := rest }

/-- 20_memory rule R40: a step takes at most the oldest request and delivers at most one result; it never takes back or alters an
earlier one. -/
def Obligations.StepTakesOneRequestAndResultsOnlyGrow : Prop :=
  ∀ s t : State, step s = .next t →
    t.inputs = s.inputs.tail ∧ (t.results = s.results ∨ ∃ r, t.results = s.results ++ [r])

/-! ## Frame Codec -/

/-- 40_frame rule R69. -/
def Obligations.FrameEncWritesTheWireFrame : Prop :=
  ∀ s : State,
    (s.operands.frame.payloadLen.toNat ≤ 8 →
      exec .frameEnc s =
        .next (s.deliver (.ok (.frameEnc (wireFrame s.operands.frame) (mustForce s.operands.frame))))) ∧
    (8 < s.operands.frame.payloadLen.toNat → exec .frameEnc s = .next (s.deliver (.error .payloadTooLarge)))

/-- 40_frame rule R72. -/
def Obligations.FrameDecReadsTheFields : Prop :=
  ∀ s : State,
    (s.operands.buf.length = 16 →
      exec .frameDec s = .next (s.deliver (.ok (.frameDec (readFrame s.operands.buf))))) ∧
    (s.operands.buf.length ≠ 16 → exec .frameDec s = .next (s.deliver (.error .lengthError)))

/-- 40_frame rule R75. -/
def Obligations.FrameEqIsStructural : Prop :=
  ∀ s : State, ∃ e : Bool,
    exec .frameEq s = .next (s.deliver (.ok (.frameEq e))) ∧ (e = true ↔ SameFrame s.operands.frameA s.operands.frameB)

/-- 40_frame rule R68 (`forced`, `norm`): only EFF is ever changed, only by setting it, only above 0x7FF; and twice is once. -/
def Obligations.NormSetsOnlyEffAndIsIdempotent : Prop :=
  ∀ f : CanFrame,
    f.forced = mustForce f ∧ f.norm.norm = f.norm ∧ f.norm.identifier = f.identifier ∧
    f.norm.payloadLen = f.payloadLen ∧ f.norm.payloadData = f.payloadData ∧
    f.norm.flags.getLsbD 0 = f.flags.getLsbD 0 ∧ f.norm.flags.getLsbD 1 = f.flags.getLsbD 1 ∧
    f.norm.flags.getLsbD 2 = (f.flags.getLsbD 2 || decide (0x7FF < f.identifier.toNat))

/-- 40_frame section 3 (the round trip, rule R74, which the spec derives): a valid frame comes back as its normal form, and a
normalized one as itself, under FRAME.EQ. -/
def Obligations.FrameRoundTripGivesTheNormalForm : Prop :=
  ∀ (s : State) (o : Operands), o.frame.valid = true → ∃ (b : Buffer) (g : CanFrame),
    exec .frameEnc (s.withOperands o) =
      .next ((s.withOperands o).deliver (.ok (.frameEnc b (mustForce o.frame)))) ∧
    exec .frameDec (s.withOperands { o with buf := b }) =
      .next ((s.withOperands { o with buf := b }).deliver (.ok (.frameDec g))) ∧
    exec .frameEq (s.withOperands { o with frameA := g, frameB := o.frame.norm }) =
      .next ((s.withOperands { o with frameA := g, frameB := o.frame.norm }).deliver (.ok (.frameEq true))) ∧
    exec .frameEq (s.withOperands { o with frameA := g, frameB := o.frame }) =
      .next ((s.withOperands { o with frameA := g, frameB := o.frame }).deliver (.ok (.frameEq (!mustForce o.frame))))

/-- 40_frame section 3 (rule R74, the other direction): encoding a decoded buffer gives the buffer back exactly when its padding is
zero, its length byte is at most 8, and EFF is set whenever the identifier exceeds 0x7FF. -/
def Obligations.FrameReencodingGivesTheBufferBackExactlyWhenCanonical : Prop :=
  ∀ (s : State) (o : Operands), o.buf.length = 16 → ∃ (f : CanFrame) (b : Buffer) (e : Bool),
    exec .frameDec (s.withOperands o) = .next ((s.withOperands o).deliver (.ok (.frameDec f))) ∧
    exec .frameEnc (s.withOperands { o with frame := f }) =
      .next ((s.withOperands { o with frame := f }).deliver (.ok (.frameEnc b e))) ∧
    (b = o.buf ↔
      (o.buf.getD 5 0 = 0 ∧ o.buf.getD 6 0 = 0 ∧ o.buf.getD 7 0 = 0 ∧ (o.buf.getD 4 0).toNat ≤ 8 ∧
       (∀ k, 8 + (o.buf.getD 4 0).toNat ≤ k → k < 16 → o.buf.getD k 0 = 0) ∧
       (0x7FF < (word32At o.buf 0 &&& 0x1FFFFFFF).toNat → (word32At o.buf 0).getLsbD 31 = true)))

/-- 00_scope rule R6, 20_memory rule R37: the frame round trip holds in either byte order, on the codec's own functions. The decoded
frame is the normal form with zeros beyond the payload. -/
def Obligations.FrameRoundTripInEitherByteOrder : Prop :=
  ∀ (o : ByteOrder) (f : CanFrame), f.valid = true →
    (frameBytes o f).length = 16 ∧
    frameFields o (frameBytes o f) =
      { f.norm with payloadData := Vector.ofFn fun i => if i.val < f.payloadLen.toNat then f.payloadData[i] else 0#8 }

/-! ## Interval Codec -/

/-- 41_interval rule R80, on the arithmetic of rule R78 as the model codes it: the four lines, in the domain of rule R79. -/
def Obligations.IvalToWireFollowsItsFormula : Prop :=
  ∀ s : State, InDomain s.operands.seconds →
    let x := s.operands.seconds
    let sec := Binary64.trunc x
    let d := Binary64.fsub x (Binary64.ofInt sec)
    let p := Binary64.fmul d 0x412E848000000000#64
    ∃ sec' usec' : SInt, exec .ivalToWire s = .next (s.deliver (.ok (.ivalToWire sec' usec'))) ∧
      sec'.toInt = sec ∧ usec'.toInt = Binary64.trunc p

/-- 41_interval sections 1 and 2 (rules R78, R80, R81): in exact terms, `sec` is the truncation of the operand, and `usec` that of
the product of its exact fraction with 1000000, rounded once to nearest even. -/
def Obligations.IvalToWireTruncatesWithOneRounding : Prop :=
  ∀ s : State, InDomain s.operands.seconds →
    ∃ (sec usec : SInt) (p : Binary64),
      exec .ivalToWire s = .next (s.deliver (.ok (.ivalToWire sec usec))) ∧
      sec.toInt = ratTrunc (value s.operands.seconds) ∧
      RoundsTo ((value s.operands.seconds - sec.toInt) * 1000000) p ∧
      usec.toInt = ratTrunc (value p)

/-- 41_interval rule R88 with the operation's `err` of rule R80: every operand is answered, and never with an error. Outside the
domain the two fields are free values (log 6), about which nothing is said. -/
def Obligations.IvalToWireAnswersEveryOperand : Prop :=
  ∀ s : State, ∃ sec usec : SInt, exec .ivalToWire s = .next (s.deliver (.ok (.ivalToWire sec usec)))

/-- 41_interval section 2 (rules R82, R83, which the spec derives): the two fields never have opposite signs, `sec` does not exceed
the operand, and `usec` lies from -999999 to 999999. -/
def Obligations.IvalToWireFieldsStayInRange : Prop :=
  ∀ s : State, InDomain s.operands.seconds →
    ∃ sec usec : SInt, exec .ivalToWire s = .next (s.deliver (.ok (.ivalToWire sec usec))) ∧
      -999999 ≤ usec.toInt ∧ usec.toInt ≤ 999999 ∧ |(sec.toInt : ℚ)| ≤ |value s.operands.seconds| ∧
      (0 ≤ value s.operands.seconds → 0 ≤ sec.toInt ∧ 0 ≤ usec.toInt) ∧
      (value s.operands.seconds ≤ 0 → sec.toInt ≤ 0 ∧ usec.toInt ≤ 0)

/-- 41_interval rule R85, on the arithmetic of rule R78 as the model codes it: the division first, the addition second, for any pair
(rule R86). -/
def Obligations.IvalFromWireFollowsItsFormula : Prop :=
  ∀ s : State,
    let q := Binary64.fdiv (Binary64.ofInt s.operands.usec.toInt) 0x412E848000000000#64
    exec .ivalFromWire s =
      .next (s.deliver (.ok (.ivalFromWire (Binary64.fadd (Binary64.ofInt s.operands.sec.toInt) q))))

/-- 41_interval section 3 (rules R78, R85, R87): in exact terms, two roundings to nearest even, for every pair of 32-bit integers;
the result is always finite. -/
def Obligations.IvalFromWireRoundsTwice : Prop :=
  ∀ s : State, ∃ q y : Binary64,
    exec .ivalFromWire s = .next (s.deliver (.ok (.ivalFromWire y))) ∧
    RoundsTo ((s.operands.usec.toInt : ℚ) / 1000000) q ∧ RoundsTo ((s.operands.sec.toInt : ℚ) + value q) y

/-- 41_interval section 2 (rule R84, what a host may rely on): an operand of the domain comes back within one microsecond and the
rounding error of IVAL.FROMWIRE, and that error is at most one unit in the last place. -/
def Obligations.IntervalRoundTripLosesLessThanAMicrosecond : Prop :=
  ∀ (s : State) (o : Operands), InDomain o.seconds → ∃ (sec usec : SInt) (y : Binary64),
    exec .ivalToWire (s.withOperands o) =
      .next ((s.withOperands o).deliver (.ok (.ivalToWire sec usec))) ∧
    exec .ivalFromWire (s.withOperands { o with sec := sec, usec := usec }) =
      .next ((s.withOperands { o with sec := sec, usec := usec }).deliver (.ok (.ivalFromWire y))) ∧
    |value y - value o.seconds| < 1 / 1000000 + |value y - (sec.toInt + usec.toInt / 1000000)| ∧
    |value y - (sec.toInt + usec.toInt / 1000000)| ≤ ulp y

/-- 41_interval section 1 (rule R78): each operation computes the exact result of its two finite operands and rounds it once, ties to
even; 1000000.0 is exact. The premise of each clause bounds the exact result, and the clause says that the rounded one is finite. Of
exact results from `roundingLimit` on, the rule does not speak (log 14). -/
def Obligations.FloatOperationsRoundOnceToNearestEven : Prop :=
  value 0x412E848000000000#64 = 1000000 ∧
  (∀ i : Int, |(i : ℚ)| < roundingLimit → RoundsTo i (Binary64.ofInt i)) ∧
  (∀ i : Int, i.natAbs ≤ 2 ^ 53 → Binary64.isFinite (Binary64.ofInt i) = true ∧ value (Binary64.ofInt i) = i) ∧
  ∀ a b : Binary64, Binary64.isFinite a = true → Binary64.isFinite b = true →
    (|value a + value b| < roundingLimit → RoundsTo (value a + value b) (Binary64.fadd a b)) ∧
    (|value a - value b| < roundingLimit → RoundsTo (value a - value b) (Binary64.fsub a b)) ∧
    (|value a * value b| < roundingLimit → RoundsTo (value a * value b) (Binary64.fmul a b)) ∧
    (value b ≠ 0 → |value a / value b| < roundingLimit → RoundsTo (value a / value b) (Binary64.fdiv a b))

/-- 41_interval section 4 (rule R89): IEEE 754 equality on patterns is equality of values, infinities equal themselves, and a NaN
equals nothing. -/
def Obligations.FloatEqualityIsEqualityOfValues : Prop :=
  ∀ a b : Binary64,
    (Binary64.isNaN a = true ∨ Binary64.isNaN b = true → Binary64.feq a b = false) ∧
    (Binary64.isFinite a = true → Binary64.isFinite b = true →
      (Binary64.feq a b = true ↔ value a = value b)) ∧
    (Binary64.isNaN a = false → Binary64.isNaN b = false → Binary64.isFinite a = false →
      (Binary64.feq a b = true ↔ a = b) ∧ (Binary64.feq b a = true ↔ a = b))

/-! ## BCM Message Codec -/

/-- 42_bcm rule R93 (and R95 for the error): the header, then the frames in list order, and one forced bit per frame. The interval
pairs are those of rule R80 in its domain; outside it they are free (rule R96 b, log 6). A message of 2^32 frames or more is rule
R96 d's (BcmEncRefusesTooManyFrames). -/
def Obligations.BcmEncWritesHeaderAndFrames : Prop :=
  ∀ s : State,
    ((∃ f ∈ s.operands.msg.frames, 8 < f.payloadLen.toNat) →
      exec .bcmEnc s = .next (s.deliver (.error .payloadTooLarge))) ∧
    ((∀ f ∈ s.operands.msg.frames, f.payloadLen.toNat ≤ 8) → s.operands.msg.frames.length < 2 ^ 32 →
      ∃ pair1 pair2 : SInt × SInt,
        (InDomain s.operands.msg.interval1 → pair1 = Interval.toWire Binary64.arith s.operands.msg.interval1) ∧
        (InDomain s.operands.msg.interval2 → pair2 = Interval.toWire Binary64.arith s.operands.msg.interval2) ∧
        exec .bcmEnc s = .next (s.deliver (.ok (.bcmEnc
          (wireHeader s.operands.msg pair1 pair2 ++ (s.operands.msg.frames.map wireFrame).flatten)
          (s.operands.msg.frames.map mustForce)))))

/-- 42_bcm section 2 (rule R96 d, 93_implementation_defined U6): the spec leaves the behaviour unspecified and has a model refuse the
operand. The frames' payloads are tested first (log 7). -/
def Obligations.BcmEncRefusesTooManyFrames : Prop :=
  ∀ s : State, (∀ f ∈ s.operands.msg.frames, f.payloadLen.toNat ≤ 8) → 2 ^ 32 ≤ s.operands.msg.frames.length →
    exec .bcmEnc s = .refused .frameListTooLong

/-- 42_bcm rule R97 (with the order of rule R98). `n` is the declared count at offset 32. -/
def Obligations.BcmDecReadsHeaderAndFrames : Prop :=
  ∀ s : State,
    let b := s.operands.buf
    let n := (word32At b 32).toNat
    (b.length < 40 → exec .bcmDec s = .next (s.deliver (.error .lengthError))) ∧
    (40 ≤ b.length → b.length ≠ 40 + 16 * n → exec .bcmDec s = .next (s.deliver (.error .frameCountMismatch))) ∧
    (b.length = 40 + 16 * n →
      exec .bcmDec s = .next (s.deliver (.ok (.bcmDec
        { opcode := word32At b 0
          flags := word32At b 4
          repeatCount := word32At b 8
          interval1 := Interval.fromWire Binary64.arith (word32At b 12) (word32At b 16)
          interval2 := Interval.fromWire Binary64.arith (word32At b 20) (word32At b 24)
          identifier := word32At b 28
          frames := (List.range n).map fun i => readFrame ((b.drop (40 + 16 * i)).take 16) }))))

/-- 42_bcm rule R101. -/
def Obligations.BcmEqIsStructural : Prop :=
  ∀ s : State, ∃ e : Bool,
    exec .bcmEq s = .next (s.deliver (.ok (.bcmEq e))) ∧
    (e = true ↔
      (s.operands.msgA.opcode = s.operands.msgB.opcode ∧ s.operands.msgA.flags = s.operands.msgB.flags ∧
       s.operands.msgA.repeatCount = s.operands.msgB.repeatCount ∧
       Binary64.feq s.operands.msgA.interval1 s.operands.msgB.interval1 = true ∧
       Binary64.feq s.operands.msgA.interval2 s.operands.msgB.interval2 = true ∧
       s.operands.msgA.identifier = s.operands.msgB.identifier ∧
       List.Forall₂ SameFrame s.operands.msgA.frames s.operands.msgB.frames))

/-- 42_bcm section 3 (rule R100, which the spec derives): a valid message comes back with its integer fields, its frames normalized
in order and its intervals converted there and back; it equals the original under BCM.EQ exactly when every frame is normalized and
both intervals survive the conversion. -/
def Obligations.BcmRoundTrip : Prop :=
  ∀ (s : State) (o : Operands), o.msg.valid Config.hardware = true → ∃ (b : Buffer) (es : List Bool) (m : BcmMessage),
    exec .bcmEnc (s.withOperands o) = .next ((s.withOperands o).deliver (.ok (.bcmEnc b es))) ∧
    exec .bcmDec (s.withOperands { o with buf := b }) =
      .next ((s.withOperands { o with buf := b }).deliver (.ok (.bcmDec m))) ∧
    m.opcode = o.msg.opcode ∧ m.flags = o.msg.flags ∧ m.repeatCount = o.msg.repeatCount ∧
    m.identifier = o.msg.identifier ∧
    List.Forall₂ SameFrame m.frames (o.msg.frames.map CanFrame.norm) ∧
    (let back := fun x : Binary64 =>
       Interval.fromWire Binary64.arith (Interval.toWire Binary64.arith x).1 (Interval.toWire Binary64.arith x).2
     m.interval1 = back o.msg.interval1 ∧ m.interval2 = back o.msg.interval2 ∧
     ∃ e : Bool,
       exec .bcmEq (s.withOperands { o with msgA := m, msgB := o.msg }) =
         .next ((s.withOperands { o with msgA := m, msgB := o.msg }).deliver (.ok (.bcmEq e))) ∧
       (e = true ↔ (∀ f ∈ o.msg.frames, f.normalized = true) ∧
         Binary64.feq (back o.msg.interval1) o.msg.interval1 = true ∧
         Binary64.feq (back o.msg.interval2) o.msg.interval2 = true))

/-- 30_encoding rule R62: all 32 bits of `flags` pass through, written on encode and returned on decode, and cause no error. -/
def Obligations.BcmFlagBitsPassThrough : Prop :=
  (∀ s : State, (∀ f ∈ s.operands.msg.frames, f.payloadLen.toNat ≤ 8) → s.operands.msg.frames.length < 2 ^ 32 →
    ∃ b es, exec .bcmEnc s = .next (s.deliver (.ok (.bcmEnc b es))) ∧ word32At b 4 = s.operands.msg.flags) ∧
  (∀ s : State, s.operands.buf.length = 40 + 16 * (word32At s.operands.buf 32).toNat →
    ∃ m, exec .bcmDec s = .next (s.deliver (.ok (.bcmDec m))) ∧ m.flags = word32At s.operands.buf 4)

/-! ## Errors -/

/-- 60_exceptions rule R104, over every row of the table: LengthError is raised by FRAME.DEC exactly when the length is not 16, by
BCM.DEC exactly when it is below 40, and by nothing else. -/
def Obligations.LengthErrorExactlyWhen : Prop :=
  ∀ (i : Instr) (s : State),
    exec i s = .next (s.deliver (.error .lengthError)) ↔
      (i = .frameDec ∧ s.operands.buf.length ≠ 16) ∨ (i = .bcmDec ∧ s.operands.buf.length < 40)

/-- 60_exceptions rule R105, over every row of the table. -/
def Obligations.PayloadTooLargeExactlyWhen : Prop :=
  ∀ (i : Instr) (s : State),
    exec i s = .next (s.deliver (.error .payloadTooLarge)) ↔
      (i = .frameEnc ∧ 8 < s.operands.frame.payloadLen.toNat) ∨
      (i = .bcmEnc ∧ ∃ f ∈ s.operands.msg.frames, 8 < f.payloadLen.toNat)

/-- 60_exceptions rule R106, over every row of the table; the header is present, since LengthError has priority (rule R109). -/
def Obligations.FrameCountMismatchExactlyWhen : Prop :=
  ∀ (i : Instr) (s : State),
    exec i s = .next (s.deliver (.error .frameCountMismatch)) ↔
      i = .bcmDec ∧ 40 ≤ s.operands.buf.length ∧
      ((s.operands.buf.length - 40) % 16 ≠ 0 ∨
        (s.operands.buf.length - 40) / 16 ≠ (word32At s.operands.buf 32).toNat)

/-- 60_exceptions rule R107. -/
def Obligations.StatusCodesOfResults : Prop :=
  (∀ out, (Result.ok out).err = 0) ∧ (Result.error .lengthError).err = 1 ∧ (Result.error .payloadTooLarge).err = 2 ∧
    (Result.error .frameCountMismatch).err = 3

/-- 10_state section 4 (rule R24 b), over every row of the table: `eff_forced` goes with the successes of the two encoders only, one
Bool per encoded frame, true exactly where the operand frame's EFF had to be set. -/
def Obligations.EffForcedReportsEachForcedFrame : Prop :=
  ∀ (i : Instr) (s : State) (out : Output), exec i s = .next (s.deliver (.ok out)) →
    (i = .frameEnc → out.effForced = some [mustForce s.operands.frame]) ∧
    (i = .bcmEnc → out.effForced = some (s.operands.msg.frames.map mustForce)) ∧
    (i ≠ .frameEnc → i ≠ .bcmEnc → out.effForced = none)

/-- 60_exceptions rule R111: an error ends its operation, and the next request, on whatever operand record it brings, is served as if
the failed one had never been made. First for the operations; then for two steps of a run in which the first request fails, against
the run that never had it. -/
def Obligations.ErrorsLeaveNoTrace : Prop :=
  (∀ (i j : Instr) (s : State) (o : Operands) (e : ErrorKind) (r : Result),
    exec i s = .next (s.deliver (.error e)) →
    exec j (s.withOperands o) = .next ((s.withOperands o).deliver r) →
      exec j ((s.deliver (.error e)).withOperands o) = .next (((s.deliver (.error e)).withOperands o).deliver r)) ∧
  (∀ (s t u : State) (failed next : Input) (rest : List Input) (o : Operands) (e : ErrorKind) (r : Result),
    s.inputs = failed :: next :: rest → next.operands = some o →
    step s = .next t → t.results = s.results ++ [.error e] →
    step { s with inputs := next :: rest } = .next u → u.results = s.results ++ [r] →
      step t = .next { u with results := s.results ++ [.error e, r] })

/-! ## Statelessness, frames, runs -/

/-- 20_memory rule R29, 10_state rule R13: an operation that completes leaves the operand record (every operand buffer in it) and the
host's further requests as they were, and appends exactly one result. -/
def Obligations.OperationsChangeNothingButTheResults : Prop :=
  ∀ (i : Instr) (s t : State), isOperation i = true → exec i s = .next t →
    t.operands = s.operands ∧ t.inputs = s.inputs ∧ ∃ r, t.results = s.results ++ [r]

/-- 10_state rules R13, R15: a result is a function of the operand fields that the operation takes, whatever the other fields, the
further requests and the earlier results are. -/
def Obligations.ResultDependsOnlyOnTheOperandsTaken : Prop :=
  ∀ (i : Instr) (s1 s2 : State) (r : Result), AgreeOn i s1.operands s2.operands →
    exec i s1 = .next (s1.deliver r) → exec i s2 = .next (s2.deliver r)

/-- 70_reset section 4 (rules R124, R130) and 10_state section 2: every answerable request of an operation is answered, with one
result, in any state. -/
def Obligations.EveryAnswerableRequestIsAnswered : Prop :=
  ∀ (i : Instr) (s : State), Answerable i s.operands →
    ∃ r, answer i s.operands = some r ∧ exec i s = .next (s.deliver r)

/-- 20_memory section 4 (rule R41) and 70_reset section 1 (rule R124): a run over any sequence of answerable requests, in any order,
from any earlier results, delivers one result for each, in order, each the result of its own request performed alone. -/
def Obligations.RunsDeliverOneResultPerRequestWhateverTheOrder : Prop :=
  ∀ (reqs : List (Instr × Operands)) (s : State), (∀ p ∈ reqs, Answerable p.1 p.2) → s.inputs = reqs.map request →
    ∃ t, Sys2Proof.core.run reqs.length s = .next t ∧ t.inputs = [] ∧
      t.results.map some = s.results.map some ++ reqs.map fun p => answer p.1 p.2

/-- 40_frame rule R70, 42_bcm rule R94, 10_state rules R17 and R19: every step keeps the shape of all delivered results. -/
def Obligations.StepKeepsDeliveredResultsShaped : Prop :=
  ∀ s t : State, ResultsShaped s → step s = .next t → ResultsShaped t

/-- The invariant of StepKeepsDeliveredResultsShaped holds at reset (70_reset rule R120). -/
def Obligations.ResetResultsAreShaped : Prop := ResultsShaped State.reset

/-! ## Data rows -/

/-- 30_encoding section 6 (table of rule R56): the nine opcode constants. That presenting one puts it into the message operand and
changes nothing else is the model's choice (log 3). -/
def Obligations.OpcodeConstantsStandInTheOpcodeField : Prop :=
  ∀ (s : State) (p : Instr × Word32),
    p ∈ [(Instr.txSetup, (1 : Word32)), (.txDelete, 2), (.txRead, 3), (.rxSetup, 5), (.rxDelete, 6), (.rxRead, 7),
      (.rxStatus, 10), (.rxTimeout, 11), (.rxChanged, 12)] →
    exec p.1 s = .next { s with operands := { s.operands with msg := { s.operands.msg with opcode := p.2 } } }

/-- 30_encoding section 6 (table of rule R57): the three BCM flag constants set their bit and no other. That presenting one changes
the message operand is the model's choice (log 3). -/
def Obligations.BcmFlagConstantsSetTheirBit : Prop :=
  ∀ (s : State) (p : Instr × Nat), p ∈ [(Instr.setTimer, 0), (.startTimer, 1), (.rxFilterId, 5)] →
    ∃ fl : Word32,
      exec p.1 s = .next { s with operands := { s.operands with msg := { s.operands.msg with flags := fl } } } ∧
      ∀ k, k < 32 → fl.getLsbD k = (s.operands.msg.flags.getLsbD k || decide (k = p.2))

/-- 30_encoding section 6 (table of rule R58) with 10_state rule R18: the three CAN flag constants set their bit of `Flags3` and no
other. That presenting one changes the frame operand is the model's choice (log 3). -/
def Obligations.CanFlagConstantsSetTheirBit : Prop :=
  ∀ (s : State) (p : Instr × Nat), p ∈ [(Instr.errFlag, 0), (.rtrFlag, 1), (.effFlag, 2)] →
    ∃ fl : Flags3,
      exec p.1 s = .next { s with operands := { s.operands with frame := { s.operands.frame with flags := fl } } } ∧
      ∀ k, k < 3 → fl.getLsbD k = (s.operands.frame.flags.getLsbD k || decide (k = p.2))

/-- 30_encoding section 6: a constant put into the operand record reaches its field of the wire form: the opcode at header offset 0,
a BCM flag in the word at header offset 4, a CAN flag in the identifier word at frame offset 0. The first step is the model's choice
(log 3). -/
def Obligations.StagedConstantsReachTheWire : Prop :=
  ∀ (i : Instr) (s : State), isOperation i = false → ∃ t, exec i s = .next t ∧
    (((encode i).fmt = .canFlag ∧ s.operands.frame.payloadLen.toNat ≤ 8) →
      ∃ b e, exec .frameEnc t = .next (t.deliver (.ok (.frameEnc b e))) ∧ rowHolds i (word32At b 0) = true) ∧
    ((∀ f ∈ s.operands.msg.frames, f.payloadLen.toNat ≤ 8) ∧ s.operands.msg.frames.length < 2 ^ 32 →
      ∃ b es, exec .bcmEnc t = .next (t.deliver (.ok (.bcmEnc b es))) ∧
        ((encode i).fmt = .bcmOpcode → rowHolds i (word32At b 0) = true) ∧
        ((encode i).fmt = .bcmFlag → rowHolds i (word32At b 4) = true))

/-! ## Buffers and configuration -/

/-- 20_memory rule R34: `MemRead` after `MemWrite` gives the value back, and every other byte, and the length, are as before; in
both byte orders. -/
def Obligations.MemReadAfterMemWriteAndItsFrame : Prop :=
  ∀ (o : ByteOrder) (buf : Buffer) (off n v : Nat), off + n ≤ buf.length → v < 2 ^ (8 * n) →
    Buffer.memRead o (Buffer.memWrite o buf off n v) off n = v ∧
    (Buffer.memWrite o buf off n v).length = buf.length ∧
    ∀ k, k < off ∨ off + n ≤ k → (Buffer.memWrite o buf off n v)[k]? = buf[k]?

/-- 20_memory rule R36: the signed forms, in both byte orders. -/
def Obligations.MemReadSAfterMemWriteS : Prop :=
  ∀ (o : ByteOrder) (buf : Buffer) (off n : Nat) (v : Int), 0 < n → off + n ≤ buf.length →
    -2 ^ (8 * n - 1) ≤ v → v < 2 ^ (8 * n - 1) →
    Buffer.memReadS o (Buffer.memWriteS o buf off n v) off n = v

/-- 20_memory rule R33: the two sums. -/
def Obligations.MemReadIsTheWeightedSum : Prop :=
  ∀ (buf : Buffer) (off n : Nat), off + n ≤ buf.length →
    Buffer.memRead .little buf off n = ∑ k ∈ Finset.range n, (buf.getD (off + k) 0).toNat * 256 ^ k ∧
    Buffer.memRead .big buf off n = ∑ k ∈ Finset.range n, (buf.getD (off + k) 0).toNat * 256 ^ (n - 1 - k)

/-- 20_memory section 2 (rule R37) and 70_reset section 3 (rule R129): a field written under one byte order and read under the other
comes back byte-reversed, with no error. -/
def Obligations.OtherByteOrderReadsTheBytesReversed : Prop :=
  ∀ (buf : Buffer) (off : Nat) (b0 b1 b2 b3 : Byte), off + 4 ≤ buf.length →
    Buffer.memRead .big (Buffer.memWrite .little buf off 4 (b3 ++ b2 ++ b1 ++ b0 : BitVec 32).toNat) off 4 =
        (b0 ++ b1 ++ b2 ++ b3 : BitVec 32).toNat ∧
    Buffer.memRead .little (Buffer.memWrite .big buf off 4 (b3 ++ b2 ++ b1 ++ b0 : BitVec 32).toNat) off 4 =
        (b0 ++ b1 ++ b2 ++ b3 : BitVec 32).toNat

/-- 00_scope rules R5 and R6: this hardware takes `IVAL_W = 32` and little-endian order, and a model refuses `IVAL_W = 64` wherever an
interval field is taken or given. -/
def Obligations.IntervalWidth64IsRefused : Prop :=
  Config.hardware.ivalW = .w32 ∧ Config.hardware.byteOrder = .little ∧
  ∀ (c : Config) (s : State), c.ivalW = .w64 →
    performBcmEnc c s = .refused .intervalWidth64 ∧ performBcmDec c s = .refused .intervalWidth64 ∧
    performIvalToWire c s = .refused .intervalWidth64 ∧ performIvalFromWire c s = .refused .intervalWidth64
end

