-- ==== Sys2Proof/Laws/Binary64.lean ====
section
/-! SUPPORT. The small lemmas of binary64 patterns: what `pack` puts in each field, and the magnitude of a packed pattern. -/

namespace Sys2Proof.Binary64

theorem toNat_pack (neg : Bool) (m : Nat) (h : m < 2 ^ 63) :
    (pack neg m).toNat = (if neg then 2 ^ 63 else 0) + m := by
  unfold pack
  rw [BitVec.toNat_append, BitVec.toNat_ofNat, Nat.mod_eq_of_lt h, ← Nat.shiftLeft_add_eq_or_of_lt h]
  cases neg <;> simp [Nat.shiftLeft_eq]

theorem expo_eq (x : Binary64) : expo x = x.toNat / 2 ^ 52 % 2 ^ 11 := by
  simp [expo, BitVec.extractLsb'_toNat, Nat.shiftRight_eq_div_pow]

theorem frac_eq (x : Binary64) : frac x = x.toNat % 2 ^ 52 := by
  simp [frac, BitVec.extractLsb'_toNat]

@[simp] theorem sign_pack (neg : Bool) (m : Nat) : sign (pack neg m) = neg := by
  unfold sign pack
  rw [BitVec.getLsbD_append]
  cases neg <;> simp

theorem expo_pack (neg : Bool) (m : Nat) (h : m < 2 ^ 63) : expo (pack neg m) = m / 2 ^ 52 := by
  rw [expo_eq, toNat_pack _ _ h]
  cases neg <;> (simp; omega)

theorem frac_pack (neg : Bool) (m : Nat) (h : m < 2 ^ 63) : frac (pack neg m) = m % 2 ^ 52 := by
  rw [frac_eq, toNat_pack _ _ h]
  cases neg
  · simp
  · simp; omega

/-- A pattern below that of infinity is finite. -/
theorem isFinite_pack (neg : Bool) (m : Nat) (h : m < 2047 * 2 ^ 52) : isFinite (pack neg m) = true := by
  unfold isFinite
  rw [expo_pack _ _ (by omega)]
  simp only [bne_iff_ne, ne_eq]
  omega

/-- The significand `m` at shift `k`, as `roundMag` packs it, has the magnitude `m * 2^k`: with a shift the significand has 53 bits or
is the carry, and without one it may be any subnormal or least normal. -/
theorem mag_pack (neg : Bool) (k m : Nat) (hm : m ≤ 2 ^ 53) (hk : k = 0 ∨ 2 ^ 52 ≤ m) (h : k * 2 ^ 52 + m < 2047 * 2 ^ 52) :
    mag (pack neg (k * 2 ^ 52 + m)) = m * 2 ^ k := by
  have hlt : k * 2 ^ 52 + m < 2 ^ 63 := by omega
  unfold mag
  rw [expo_pack _ _ hlt, frac_pack _ _ hlt]
  rcases Nat.lt_or_ge m (2 ^ 52) with hs | hs
  · obtain rfl : k = 0 := by omega
    rw [if_pos (by omega)]; omega
  · have hpos : (k * 2 ^ 52 + m) / 2 ^ 52 ≠ 0 := by omega
    rw [if_neg hpos]
    rcases Nat.lt_or_ge m (2 ^ 53) with hc | hc
    · have e : (k * 2 ^ 52 + m) / 2 ^ 52 - 1 = k := by omega
      have f : 2 ^ 52 + (k * 2 ^ 52 + m) % 2 ^ 52 = m := by omega
      rw [e, f, Nat.shiftLeft_eq]
    · obtain rfl : m = 2 ^ 53 := by omega
      have e : (k * 2 ^ 52 + 2 ^ 53) / 2 ^ 52 - 1 = k + 1 := by omega
      have f : 2 ^ 52 + (k * 2 ^ 52 + 2 ^ 53) % 2 ^ 52 = 2 ^ 52 := by omega
      rw [e, f, Nat.shiftLeft_eq, pow_succ]; ring

/-- Rounding to an integer is at most half a unit off. -/
theorem nearestEven_close (num den : Nat) (hd : 0 < den) :
    2 * num ≤ 2 * (nearestEven num den * den) + den ∧ 2 * (nearestEven num den * den) ≤ 2 * num + den := by
  have hq := Nat.div_add_mod num den
  have hr := Nat.mod_lt num hd
  rw [Nat.mul_comm] at hq
  unfold nearestEven
  simp only
  split <;> constructor <;> (try rw [Nat.add_mul]) <;> omega

end Sys2Proof.Binary64
end

