-- ==== Sys2Proof/Laws/Buffer.lean ====
section
/-! SUPPORT. The small lemmas of buffers and field access. -/

namespace Sys2Proof.Buffer

@[simp] theorem length_zeros (n : Nat) : (zeros n).length = n := by simp [zeros]

@[simp] theorem length_ofNatLE (n v : Nat) : (ofNatLE n v).length = n := by
  induction n generalizing v with
  | zero => rfl
  | succ n ih => simp [ofNatLE, ih]

@[simp] theorem length_ordered (o : ByteOrder) (bs : List Byte) : (ordered o bs).length = bs.length := by
  cases o <;> simp [ordered]

@[simp] theorem ordered_ordered (o : ByteOrder) (bs : List Byte) : ordered o (ordered o bs) = bs := by
  cases o <;> simp [ordered]

/-- Every value that fits comes back from its bytes. -/
theorem toNatLE_ofNatLE (n v : Nat) (h : v < 256 ^ n) : toNatLE (ofNatLE n v) = v := by
  induction n generalizing v with
  | zero => simp [ofNatLE, toNatLE] at h ⊢; omega
  | succ n ih =>
    have hv : v / 256 < 256 ^ n := by
      rw [Nat.div_lt_iff_lt_mul (by decide)]; rwa [pow_succ] at h
    simp only [ofNatLE, toNatLE, ih _ hv, BitVec.toNat_ofNat]
    omega

/-- A sequence of bytes is below its weight. -/
theorem toNatLE_lt (bs : List Byte) : toNatLE bs < 256 ^ bs.length := by
  induction bs with
  | nil => simp [toNatLE]
  | cons b bs ih =>
    have := b.isLt
    simp only [toNatLE, List.length_cons, pow_succ]
    omega

theorem length_overwrite (buf : Buffer) (off : Nat) (bs : List Byte) (h : off + bs.length ≤ buf.length) :
    (overwrite buf off bs).length = buf.length := by
  simp [overwrite]; omega

/-- What stands where `bytes` were written is `bytes`. -/
theorem slice_overwrite (buf : Buffer) (off : Nat) (bs : List Byte) (h : off ≤ buf.length) :
    slice (overwrite buf off bs) off bs.length = bs := by
  simp [slice, overwrite, List.append_assoc, Nat.min_eq_left h]

theorem length_slice (buf : Buffer) (off n : Nat) (h : off + n ≤ buf.length) : (slice buf off n).length = n := by
  simp [slice]; omega

end Sys2Proof.Buffer
end

