-- ==== Sys2Proof/Laws/State.lean ====
section
/-! SUPPORT. One lemma per field per update of State. -/

namespace Sys2Proof.Machine

variable (s : State) (r : Result) (o : Operands) (g : CanFrame → CanFrame) (h : BcmMessage → BcmMessage)
variable (inp : Input) (rest : List Input)

@[simp] theorem State.deliver_operands : (s.deliver r).operands = s.operands := rfl
@[simp] theorem State.deliver_inputs : (s.deliver r).inputs = s.inputs := rfl
@[simp] theorem State.deliver_results : (s.deliver r).results = s.results ++ [r] := rfl

@[simp] theorem State.withOperands_operands : (s.withOperands o).operands = o := rfl
@[simp] theorem State.withOperands_inputs : (s.withOperands o).inputs = s.inputs := rfl
@[simp] theorem State.withOperands_results : (s.withOperands o).results = s.results := rfl

@[simp] theorem State.mapFrame_frame : (s.mapFrame g).operands.frame = g s.operands.frame := rfl
@[simp] theorem State.mapFrame_msg : (s.mapFrame g).operands.msg = s.operands.msg := rfl
@[simp] theorem State.mapFrame_inputs : (s.mapFrame g).inputs = s.inputs := rfl
@[simp] theorem State.mapFrame_results : (s.mapFrame g).results = s.results := rfl

@[simp] theorem State.mapMsg_msg : (s.mapMsg h).operands.msg = h s.operands.msg := rfl
@[simp] theorem State.mapMsg_frame : (s.mapMsg h).operands.frame = s.operands.frame := rfl
@[simp] theorem State.mapMsg_inputs : (s.mapMsg h).inputs = s.inputs := rfl
@[simp] theorem State.mapMsg_results : (s.mapMsg h).results = s.results := rfl

@[simp] theorem State.accept_operands : (s.accept inp rest).operands = inp.operands.getD s.operands := rfl
@[simp] theorem State.accept_inputs : (s.accept inp rest).inputs = rest := rfl
@[simp] theorem State.accept_results : (s.accept inp rest).results = s.results := rfl

@[simp] theorem State.reset_inputs : State.reset.inputs = [] := rfl
@[simp] theorem State.reset_results : State.reset.results = [] := rfl

@[simp] theorem State.withFetchWord_inputs (nbits w : Nat) :
    (s.withFetchWord nbits w).inputs = { word := tableWord nbits w, operands := none } :: s.inputs := rfl
@[simp] theorem State.withFetchWord_operands (nbits w : Nat) : (s.withFetchWord nbits w).operands = s.operands := rfl
@[simp] theorem State.withFetchWord_results (nbits w : Nat) : (s.withFetchWord nbits w).results = s.results := rfl

/-- Two deliveries on one state are equal only for equal results. -/
theorem State.deliver_inj {s : State} {r r' : Result} : s.deliver r = s.deliver r' ↔ r = r' := by
  constructor
  · intro h
    have := congrArg State.results h
    simpa using this
  · rintro rfl; rfl

/-- A change of the message operand delivers nothing. -/
theorem State.mapMsg_ne_deliver (s : State) (h : BcmMessage → BcmMessage) (r : Result) : s.mapMsg h ≠ s.deliver r := by
  intro e
  have := congrArg State.results e
  simp at this

/-- A change of the frame operand delivers nothing. -/
theorem State.mapFrame_ne_deliver (s : State) (g : CanFrame → CanFrame) (r : Result) : s.mapFrame g ≠ s.deliver r := by
  intro e
  have := congrArg State.results e
  simp at this

end Sys2Proof.Machine
end

