-- ==== Sys2Proof/Laws/Ops.lean ====
section
/-! SUPPORT. What each shared operation and each operation of the block can answer, said once. -/

namespace Sys2Proof.Machine

@[simp] theorem hardware_ivalW : Config.hardware.ivalW = .w32 := rfl
@[simp] theorem hardware_byteOrder : Config.hardware.byteOrder = .little := rfl
@[simp] theorem hardware_arith : Config.hardware.arith = Binary64.arith := rfl
@[simp] theorem hardware_admits (n : Nat) : Config.hardware.admits n = true := rfl

@[simp] theorem guardWidth_hardware (k : Outcome) : guardWidth Config.hardware k = k := rfl
@[simp] theorem guardBuffer_hardware (n : Nat) (k : Outcome) : guardBuffer Config.hardware n k = k := rfl

/-- `respond` has one outcome: its result delivered. -/
theorem respond_eq (r : Result) (s : State) : respond r s = .next (s.deliver r) := rfl
theorem raise_eq (e : ErrorKind) (s : State) : raise e s = .next (s.deliver (.error e)) := rfl
theorem succeed_eq (out : Output) (s : State) : succeed out s = .next (s.deliver (.ok out)) := rfl

/-- The results that the eight operations can deliver, as functions of the operand record alone; `none` where an operation is
refused. The rows that are data deliver nothing. -/
def resultOf (i : Instr) (o : Operands) : Option Result :=
  match i with
  | .frameEnc =>
      some (if o.frame.tooLong then .error .payloadTooLarge
        else .ok (.frameEnc (frameBytes .little o.frame) o.frame.forced))
  | .frameDec =>
      some (if o.buf.length ≠ 16 then .error .lengthError else .ok (.frameDec (frameFields .little o.buf)))
  | .ivalToWire =>
      let p := Interval.toWireOr Binary64.arith (Config.freeToWire o.seconds) o.seconds
      some (.ok (.ivalToWire p.1 p.2))
  | .ivalFromWire => some (.ok (.ivalFromWire (Interval.fromWire Binary64.arith o.sec o.usec)))
  | .bcmEnc =>
      if o.msg.frames.any CanFrame.tooLong then some (.error .payloadTooLarge)
      else if o.msg.countFits then
        some (.ok (.bcmEnc (bcmBytes Config.hardware o.msg) (o.msg.frames.map CanFrame.forced)))
      else none
  | .bcmDec =>
      some (if o.buf.length < 40 then .error .lengthError
        else if chunksMatch .little o.buf then .ok (.bcmDec (bcmFields Config.hardware o.buf))
        else .error .frameCountMismatch)
  | .frameEq => some (.ok (.frameEq (frameEqual o.frameA o.frameB)))
  | .bcmEq => some (.ok (.bcmEq (bcmEqual o.msgA o.msgB)))
  | .txSetup | .txDelete | .txRead | .rxSetup | .rxDelete | .rxRead | .rxStatus | .rxTimeout | .rxChanged => none
  | .setTimer | .startTimer | .rxFilterId => none
  | .errFlag | .rtrFlag | .effFlag => none

/-- The one inversion lemma of the eight operations: each delivers its result, or is refused for its frame count. -/
theorem exec_operation (i : Instr) (h : (encode i).fmt = .cmd) (s : State) :
    exec i s = match resultOf i s.operands with
      | some r => .next (s.deliver r)
      | none => .refused .frameListTooLong := by
  cases i <;> first | (exfalso; revert h; decide) | skip
  case frameEnc =>
    simp only [exec, execFrameEnc, performFrameEnc, resultOf, guardBuffer_hardware, hardware_byteOrder, raise_eq, succeed_eq]
    split <;> rfl
  case frameDec =>
    simp only [exec, execFrameDec, performFrameDec, resultOf, guardBuffer_hardware, hardware_byteOrder, raise_eq, succeed_eq]
    split <;> rfl
  case ivalToWire => rfl
  case ivalFromWire => rfl
  case bcmEnc =>
    simp only [exec, execBcmEnc, performBcmEnc, resultOf, guardWidth_hardware, guardBuffer_hardware, raise_eq, succeed_eq]
    split
    · rfl
    · cases s.operands.msg.countFits <;> rfl
  case bcmDec =>
    simp only [exec, execBcmDec, performBcmDec, resultOf, guardWidth_hardware, guardBuffer_hardware, hardware_byteOrder,
      raise_eq, succeed_eq]
    split
    · rfl
    · by_cases hc : chunksMatch .little s.operands.buf = true <;> simp [hc]
  case frameEq => rfl
  case bcmEq => rfl

/-- The one inversion lemma of the data rows: each changes the message operand or the frame operand and nothing else. -/
theorem exec_data (i : Instr) (h : (encode i).fmt ≠ .cmd) (s : State) :
    (∃ g, exec i s = .next (s.mapMsg g)) ∨ (∃ g, exec i s = .next (s.mapFrame g)) := by
  cases i <;> first | (exfalso; revert h; decide) | exact .inl ⟨_, rfl⟩ | exact .inr ⟨_, rfl⟩

/-- A completed operation appends one result and changes nothing else. -/
theorem exec_operation_next {i : Instr} (h : (encode i).fmt = .cmd) {s t : State} (ht : exec i s = .next t) :
    ∃ r, resultOf i s.operands = some r ∧ t = s.deliver r := by
  rw [exec_operation i h] at ht
  cases hr : resultOf i s.operands with
  | none => rw [hr] at ht; simp at ht
  | some r => rw [hr] at ht; simp at ht; exact ⟨r, rfl, ht.symm⟩

/-- What one step does: it idles, refuses an unnamed word, or performs the decoded request. -/
theorem step_idle {s : State} (h : s.inputs = []) : step s = .next s := by simp [step, h]

theorem step_request {s : State} {inp : Input} {rest : List Input} {i : Instr} (h : s.inputs = inp :: rest)
    (hd : decode inp.word = .ok i) : step s = exec i (s.accept inp rest) := by simp [step, h, hd]

theorem step_unnamed {s : State} {inp : Input} {rest : List Input} {r : DecodeReject} (h : s.inputs = inp :: rest)
    (hd : decode inp.word = .error r) : step s = .refused (.unnamedWord r) := by simp [step, h, hd]

end Sys2Proof.Machine
end

