-- ==== Sys2Proof/Laws/PerInstr.lean ====
section
/-! SUPPORT. Statements about every constructor of Instr, one lemma per constructor. -/

namespace Sys2Proof.Laws.RoundTrip

/-- A row's word decodes to the row, holds the row's constant under the row's mask, and is well formed. -/
def Statement (i : Instr) : Prop :=
  decode (encode i) = .ok i ∧ rowHolds i (encode i).bits = true ∧ (encode i).wf = true

theorem frameEnc : Statement .frameEnc := ⟨rfl, by decide, by decide⟩
theorem frameDec : Statement .frameDec := ⟨rfl, by decide, by decide⟩
theorem ivalToWire : Statement .ivalToWire := ⟨rfl, by decide, by decide⟩
theorem ivalFromWire : Statement .ivalFromWire := ⟨rfl, by decide, by decide⟩
theorem bcmEnc : Statement .bcmEnc := ⟨rfl, by decide, by decide⟩
theorem bcmDec : Statement .bcmDec := ⟨rfl, by decide, by decide⟩
theorem frameEq : Statement .frameEq := ⟨rfl, by decide, by decide⟩
theorem bcmEq : Statement .bcmEq := ⟨rfl, by decide, by decide⟩
theorem txSetup : Statement .txSetup := ⟨rfl, by decide, by decide⟩
theorem txDelete : Statement .txDelete := ⟨rfl, by decide, by decide⟩
theorem txRead : Statement .txRead := ⟨rfl, by decide, by decide⟩
theorem rxSetup : Statement .rxSetup := ⟨rfl, by decide, by decide⟩
theorem rxDelete : Statement .rxDelete := ⟨rfl, by decide, by decide⟩
theorem rxRead : Statement .rxRead := ⟨rfl, by decide, by decide⟩
theorem rxStatus : Statement .rxStatus := ⟨rfl, by decide, by decide⟩
theorem rxTimeout : Statement .rxTimeout := ⟨rfl, by decide, by decide⟩
theorem rxChanged : Statement .rxChanged := ⟨rfl, by decide, by decide⟩
theorem setTimer : Statement .setTimer := ⟨rfl, by decide, by decide⟩
theorem startTimer : Statement .startTimer := ⟨rfl, by decide, by decide⟩
theorem rxFilterId : Statement .rxFilterId := ⟨rfl, by decide, by decide⟩
theorem errFlag : Statement .errFlag := ⟨rfl, by decide, by decide⟩
theorem rtrFlag : Statement .rtrFlag := ⟨rfl, by decide, by decide⟩
theorem effFlag : Statement .effFlag := ⟨rfl, by decide, by decide⟩

end Sys2Proof.Laws.RoundTrip
end

