-- ==== Sys2Proof/Laws/Wire.lean ====
section
/-! SUPPORT. Four-byte and one-byte fields in little-endian order, against the forms in which the statements write them. -/

namespace Sys2Proof.Laws.Wire

open Sys2Proof.Safety

theorem ofNatLE_four (w : Word32) : Buffer.ofNatLE 4 w.toNat = le32 w := by
  simp only [Buffer.ofNatLE, le32, List.cons.injEq, and_true]
  refine ⟨?_, ?_, ?_, ?_⟩ <;>
    (apply BitVec.eq_of_toNat_eq; simp [Nat.shiftRight_eq_div_pow, Nat.div_div_eq_div_mul])

theorem slice_four (b : Buffer) (off : Nat) (h : off + 4 ≤ b.length) :
    Buffer.slice b off 4 = [b.getD off 0#8, b.getD (off + 1) 0#8, b.getD (off + 2) 0#8, b.getD (off + 3) 0#8] := by
  apply List.ext_getElem
  · simp [Buffer.slice]; omega
  · intro i h1 h2
    simp [Buffer.slice] at h1 h2 ⊢
    rcases i with _ | _ | _ | _ | i <;> simp <;>
      first | (rw [List.getElem?_eq_getElem (by omega)]; rfl) | omega

theorem memRead_four (b : Buffer) (off : Nat) (h : off + 4 ≤ b.length) :
    Buffer.memRead .little b off 4 = (word32At b off).toNat := by
  simp only [Buffer.memRead, Buffer.ordered, slice_four b off h, Buffer.toNatLE, word32At]
  generalize b.getD off 0#8 = x0
  generalize b.getD (off + 1) 0#8 = x1
  generalize b.getD (off + 2) 0#8 = x2
  generalize b.getD (off + 3) 0#8 = x3
  have := x0.isLt
  have := x1.isLt
  have := x2.isLt
  simp only [BitVec.toNat_append]
  rw [← Nat.shiftLeft_add_eq_or_of_lt (by omega), ← Nat.shiftLeft_add_eq_or_of_lt (by omega),
    ← Nat.shiftLeft_add_eq_or_of_lt (by omega)]
  simp only [Nat.shiftLeft_eq]
  omega

theorem memRead_one (b : Buffer) (off : Nat) (h : off < b.length) :
    Buffer.memRead .little b off 1 = (b.getD off 0#8).toNat := by
  have : Buffer.slice b off 1 = [b.getD off 0#8] := by
    simp only [Buffer.slice]
    rw [List.drop_eq_getElem_cons h, List.take_succ_cons, List.take_zero]
    simp [List.getElem?_eq_getElem h]
  simp [Buffer.memRead, Buffer.ordered, this, Buffer.toNatLE]

end Sys2Proof.Laws.Wire
end

