-- ==== Sys2Proof/Tests/Slice0.lean ====
section
/-! SUPPORT. Tests of the model: expected results are those of spec/95_test_vectors.md (the vector's id stands in the comment) or are
read from the tables of 30_encoding. Then, for every statement with hypotheses, a witness that meets them. -/

namespace Sys2Proof.Tests

open Sys2Proof.Machine Sys2Proof.Safety

/-- The result that a step delivered last. -/
def lastResult : Outcome → Option Result
  | .next t => t.results.getLast?
  | .fault _ => none
  | .refused _ => none

/-- The operand record that a step leaves. -/
def operandsAfter : Outcome → Option Operands
  | .next t => some t.operands
  | .fault _ => none
  | .refused _ => none

/-- Is the outcome this refusal? -/
def refusedWith (r : Refusal) : Outcome → Bool
  | .next _ => false
  | .fault _ => false
  | .refused q => q == r

/-- A frame operand with its payload in the low bytes. -/
def mkFrame (id : Word32) (flags : Flags3) (len : BitVec 8) (d : Vector Byte 8 := zeroFrame.payloadData) : CanFrame :=
  { identifier := id, flags := flags, payloadLen := len, payloadData := d }

/-- The state with one operand record at the boundary. -/
def onOperands (o : Operands) : State := State.reset.withOperands o

def onFrame (f : CanFrame) : State := onOperands { zeroOperands with frame := f }
def onFrames (a b : CanFrame) : State := onOperands { zeroOperands with frameA := a, frameB := b }
def onBuf (b : Buffer) : State := onOperands { zeroOperands with buf := b }
def onSeconds (x : Binary64) : State := onOperands { zeroOperands with seconds := x }
def onPair (s u : Int) : State :=
  onOperands { zeroOperands with sec := BitVec.ofInt 32 s, usec := BitVec.ofInt 32 u }
def onMsg (m : BcmMessage) : State := onOperands { zeroOperands with msg := m }
def onMsgs (a b : BcmMessage) : State := onOperands { zeroOperands with msgA := a, msgB := b }

/-- The frame of S8. -/
def frameS8 : CanFrame := mkFrame 0x123 0b000 8 #v[0x00, 0x11, 0x22, 0x33, 0x44, 0x55, 0x66, 0x77]
/-- The frame of S9. -/
def frameS9 : CanFrame := mkFrame 0x12345678 0b000 4 #v[0xDE, 0xAD, 0xBE, 0xEF, 0, 0, 0, 0]
/-- The message of V-B1. -/
def msgB1 : BcmMessage :=
  { opcode := 1, flags := 3, repeatCount := 0, interval1 := 0, interval2 := 0x3FB999999999999A, identifier := 0x123,
    frames := [frameS8, frameS9] }
/-- The message of V-B2. -/
def msgB2 : BcmMessage :=
  { opcode := 5, flags := 0x823, repeatCount := 7, interval1 := 0x3FF8000000000000, interval2 := 0x3FD0000000000000,
    identifier := 0x800007FF, frames := [] }

/-- The bytes of S8 (V-F2). -/
def bytesF2 : Buffer := [0x23#8, 0x01, 0x00, 0x00, 0x08, 0x00, 0x00, 0x00, 0x00, 0x11, 0x22, 0x33, 0x44, 0x55, 0x66, 0x77]
/-- The bytes of S9 (V-F6). -/
def bytesF6 : Buffer := [0x78#8, 0x56, 0x34, 0x92, 0x04, 0x00, 0x00, 0x00, 0xDE, 0xAD, 0xBE, 0xEF, 0x00, 0x00, 0x00, 0x00]
/-- The 72 bytes of V-B1. -/
def bytesB1 : Buffer :=
  [0x01#8, 0x00, 0x00, 0x00, 0x03, 0x00, 0x00, 0x00, 0x00, 0x00, 0x00, 0x00, 0x00, 0x00, 0x00, 0x00, 0x00, 0x00, 0x00, 0x00] ++
  [0x00#8, 0x00, 0x00, 0x00, 0xA0, 0x86, 0x01, 0x00, 0x23, 0x01, 0x00, 0x00, 0x02, 0x00, 0x00, 0x00, 0x00, 0x00, 0x00, 0x00] ++
  bytesF2 ++ bytesF6

/-! ## WellFormed: an ill-formed term for each check -/

theorem test_wf_refuses_wide_op : InstrWord.wf ⟨.cmd, 8⟩ = false := by decide
theorem test_wf_refuses_unnamed_opcode : InstrWord.wf ⟨.bcmOpcode, 4⟩ = false := by decide
theorem test_wf_refuses_two_flags_in_one_word : InstrWord.wf ⟨.bcmFlag, 3⟩ = false := by decide
theorem test_wf_refuses_can_flag_below_bit_29 : InstrWord.wf ⟨.canFlag, 0x10000000⟩ = false := by decide
theorem test_valid_refuses_identifier_bit_29 : (mkFrame 0x20000000 0 0).valid = false := by decide
theorem test_valid_refuses_nine_bytes : (mkFrame 1 0 9).valid = false := by decide
theorem test_normalized_refuses_extended_without_eff :
    (mkFrame 0x800 0 0).normalized = false ∧ (mkFrame 0x800 0 0).valid = true := by decide
theorem test_padded_refuses_data_beyond_length : (mkFrame 1 0 1 #v[1, 2, 0, 0, 0, 0, 0, 0]).padded = false := by
  decide +kernel
theorem test_message_refuses_opcode_4 : ({ msgB1 with opcode := 4 }).opcodeNamed = false := by decide
theorem test_message_refuses_nan_interval :
    ({ msgB1 with interval1 := 0x7FF8000000000000 }).intervalsInDomain Binary64.arith = false := by decide +kernel
theorem test_message_refuses_interval_2147483648 :
    ({ msgB1 with interval2 := 0x41E0000000000000 }).intervalsInDomain Binary64.arith = false := by decide +kernel
theorem test_message_refuses_bad_frame : ({ msgB1 with frames := [frameS8, mkFrame 1 0 9] }).framesValid = false := by
  decide
theorem test_message_refuses_too_many_frames (m : BcmMessage) (h : m.frames.length = 2 ^ 32) : m.countFits = false := by
  unfold BcmMessage.countFits
  rw [h]
  decide
theorem test_config_refuses_buffer_above_max : ({ Config.hardware with bufMax := some 15 }).admits 16 = false := by
  decide
theorem test_message_B1_is_valid : msgB1.valid Config.hardware = true := by decide +kernel

/-! ## Decoding: the words of 30_encoding rules R44, R56, R57, R58 -/

theorem test_decode_operation_words :
    decode ⟨.cmd, 0b000⟩ = .ok .frameEnc ∧ decode ⟨.cmd, 0b001⟩ = .ok .frameDec ∧
    decode ⟨.cmd, 0b010⟩ = .ok .ivalToWire ∧ decode ⟨.cmd, 0b011⟩ = .ok .ivalFromWire ∧
    decode ⟨.cmd, 0b100⟩ = .ok .bcmEnc ∧ decode ⟨.cmd, 0b101⟩ = .ok .bcmDec ∧
    decode ⟨.cmd, 0b110⟩ = .ok .frameEq ∧ decode ⟨.cmd, 0b111⟩ = .ok .bcmEq :=
  ⟨rfl, rfl, rfl, rfl, rfl, rfl, rfl, rfl⟩
theorem test_decode_opcode_words :
    decode ⟨.bcmOpcode, 1⟩ = .ok .txSetup ∧ decode ⟨.bcmOpcode, 2⟩ = .ok .txDelete ∧
    decode ⟨.bcmOpcode, 3⟩ = .ok .txRead ∧ decode ⟨.bcmOpcode, 5⟩ = .ok .rxSetup ∧
    decode ⟨.bcmOpcode, 6⟩ = .ok .rxDelete ∧ decode ⟨.bcmOpcode, 7⟩ = .ok .rxRead ∧
    decode ⟨.bcmOpcode, 10⟩ = .ok .rxStatus ∧ decode ⟨.bcmOpcode, 11⟩ = .ok .rxTimeout ∧
    decode ⟨.bcmOpcode, 12⟩ = .ok .rxChanged ∧ decode ⟨.bcmOpcode, 8⟩ = .error .unnamedOpcode :=
  ⟨rfl, rfl, rfl, rfl, rfl, rfl, rfl, rfl, rfl, rfl⟩
theorem test_decode_flag_words :
    decode ⟨.bcmFlag, 0x00000001⟩ = .ok .setTimer ∧ decode ⟨.bcmFlag, 0x00000002⟩ = .ok .startTimer ∧
    decode ⟨.bcmFlag, 0x00000020⟩ = .ok .rxFilterId ∧ decode ⟨.bcmFlag, 0x00000010⟩ = .error .unnamedBcmFlag ∧
    decode ⟨.canFlag, 0x20000000⟩ = .ok .errFlag ∧ decode ⟨.canFlag, 0x40000000⟩ = .ok .rtrFlag ∧
    decode ⟨.canFlag, 0x80000000⟩ = .ok .effFlag ∧ decode ⟨.canFlag, 0x10000000⟩ = .error .unnamedCanFlag :=
  ⟨rfl, rfl, rfl, rfl, rfl, rfl, rfl, rfl⟩
theorem test_decode_table_words :
    decodeTableWord 8 5 = some .bcmDec ∧ decodeTableWord 8 9 = none ∧ decodeTableWord 32 12 = some .rxChanged ∧
    decodeTableWord 32 0x20 = some .rxFilterId ∧ decodeTableWord 32 0x80000000 = some .effFlag ∧
    decodeTableWord 32 4 = none := by decide

/-! ## FRAME.ENC, FRAME.DEC, FRAME.EQ -/

-- V-F6
theorem test_frameEnc_forces_eff : lastResult (exec .frameEnc (onFrame frameS9)) = some (.ok (.frameEnc bytesF6 true)) := by
  decide +kernel
-- V-F13: the decided behaviour on a reserved identifier
theorem test_frameEnc_reserved_identifier :
    lastResult (exec .frameEnc (onFrame (mkFrame 0x20000001 0 1 #v[9, 0, 0, 0, 0, 0, 0, 0]))) =
      some (.ok (.frameEnc [0x01, 0, 0, 0xA0, 1, 0, 0, 0, 9, 0, 0, 0, 0, 0, 0, 0] true)) := by decide +kernel
-- V-D4
theorem test_frameDec_ignores_padding_and_keeps_flags :
    lastResult (exec .frameDec (onBuf
      [0x00, 0x08, 0, 0, 2, 0xAA, 0xBB, 0xCC, 1, 2, 3, 4, 5, 6, 7, 8])) =
      some (.ok (.frameDec (mkFrame 0x800 0 2 #v[1, 2, 0, 0, 0, 0, 0, 0]))) := by decide +kernel
-- V-D7
theorem test_frameDec_length_byte_nine :
    lastResult (exec .frameDec (onBuf
      [0xFF, 0xFF, 0xFF, 0xFF, 9, 0, 0, 0, 1, 2, 3, 4, 5, 6, 7, 8])) =
      some (.ok (.frameDec (mkFrame 0x1FFFFFFF 0b111 8 #v[1, 2, 3, 4, 5, 6, 7, 8]))) := by decide +kernel
-- V-Q2
theorem test_frameEq_lengths_differ :
    lastResult (exec .frameEq (onFrames (mkFrame 0x123 0 1 #v[1, 0, 0, 0, 0, 0, 0, 0])
      (mkFrame 0x123 0 2 #v[1, 0, 0, 0, 0, 0, 0, 0]))) = some (.ok (.frameEq false)) := by decide +kernel
-- V-Q1, with data beyond the length that takes no part (rule R75)
theorem test_frameEq_ignores_data_beyond_length :
    lastResult (exec .frameEq (onFrames (mkFrame 0x123 0 1 #v[1, 7, 0, 0, 0, 0, 0, 0])
      (mkFrame 0x123 0 1 #v[1, 9, 0, 0, 0, 0, 0, 0]))) = some (.ok (.frameEq true)) := by decide +kernel

/-! ## IVAL.TOWIRE, IVAL.FROMWIRE -/

-- V-T26
theorem test_ivalToWire_minus_0_3 :
    lastResult (exec .ivalToWire (onSeconds 0xBFD3333333333333)) =
      some (.ok (.ivalToWire 0 (BitVec.ofInt 32 (-300000)))) := by decide +kernel
-- V-T28, the largest operand in the domain
theorem test_ivalToWire_largest :
    lastResult (exec .ivalToWire (onSeconds 0x41DFFFFFFFFFFFFF)) =
      some (.ok (.ivalToWire 2147483647 999999)) := by decide +kernel
-- V-W10
theorem test_ivalFromWire_two_roundings :
    lastResult (exec .ivalFromWire (onPair 2 790186)) = some (.ok (.ivalFromWire 0x4006524D099E0E74)) := by
  decide +kernel
-- V-W19
theorem test_ivalFromWire_least_pair :
    lastResult (exec .ivalFromWire (onPair (-2147483648) (-2147483648))) =
      some (.ok (.ivalFromWire 0xC1E000010C6F7A0B)) := by decide +kernel

/-! ## BCM.ENC, BCM.DEC, BCM.EQ -/

-- V-B1
theorem test_bcmEnc_B1 : lastResult (exec .bcmEnc (onMsg msgB1)) = some (.ok (.bcmEnc bytesB1 [false, true])) := by
  decide +kernel
-- V-B3: negative interval, maximal fields, a reserved opcode
theorem test_bcmEnc_B3 :
    lastResult (exec .bcmEnc (onMsg
      { opcode := 4, flags := 0xFFFFFFFF, repeatCount := 0xFFFFFFFF, interval1 := 0xBFF8000000000000,
        interval2 := 0x400000008637BD06, identifier := 0xFFFFFFFF, frames := [mkFrame 0x7FF 0b010 0] })) =
      some (.ok (.bcmEnc
        ([4, 0, 0, 0, 0xFF, 0xFF, 0xFF, 0xFF, 0xFF, 0xFF, 0xFF, 0xFF, 0xFF, 0xFF, 0xFF, 0xFF, 0xE0, 0x5E, 0xF8, 0xFF] ++
         [2, 0, 0, 0, 1, 0, 0, 0, 0xFF, 0xFF, 0xFF, 0xFF, 1, 0, 0, 0, 0, 0, 0, 0] ++
         [0xFF, 0x07, 0, 0x40, 0, 0, 0, 0, 0, 0, 0, 0, 0, 0, 0, 0]) [false])) := by decide +kernel
-- V-B1, decoded
theorem test_bcmDec_B1 :
    lastResult (exec .bcmDec (onBuf bytesB1)) =
      some (.ok (.bcmDec { msgB1 with frames := [frameS8, { frameS9 with flags := 0b100 }] })) := by decide +kernel
-- V-E13: a surplus chunk is not ignored
theorem test_bcmDec_surplus_chunk :
    lastResult (exec .bcmDec (onBuf (bytesB1 ++ List.replicate 16 0))) = some (.error .frameCountMismatch) := by
  decide +kernel
-- V-B4: 0.1 against 0.1000004 in interval2
theorem test_bcmEq_compares_floats :
    lastResult (exec .bcmEq (onMsgs msgB1 { msgB1 with interval2 := 0x3FB999A04F964049 })) =
      some (.ok (.bcmEq false)) := by decide +kernel
-- rule R89: +0 equals -0
theorem test_bcmEq_zeros :
    lastResult (exec .bcmEq (onMsgs msgB1 { msgB1 with interval1 := 0x8000000000000000 })) =
      some (.ok (.bcmEq true)) := by decide +kernel

/-! ## The data rows (rules R56, R57, R58) -/

theorem test_rxTimeout_puts_11 :
    (operandsAfter (exec .rxTimeout (onMsg msgB1))).map (·.msg) = some { msgB1 with opcode := 11 } := by decide +kernel
theorem test_rxFilterId_sets_bit_5 :
    (operandsAfter (exec .rxFilterId (onMsg msgB1))).map (·.msg) = some { msgB1 with flags := 0x23 } := by decide +kernel
theorem test_effFlag_sets_flags_2 :
    (operandsAfter (exec .effFlag (onFrame frameS9))).map (·.frame) = some { frameS9 with flags := 0b100 } := by
  decide +kernel

/-! ## Steps -/

theorem test_first_step_runs_frameEnc :
    lastResult (step (State.reset.withFetchWord 8 0)) = some (.ok (.frameEnc (List.replicate 16 0) false)) := by
  decide +kernel
-- V-E5
theorem test_first_step_runs_bcmDec : lastResult (step (State.reset.withFetchWord 8 5)) = some (.error .lengthError) := by
  decide +kernel
theorem test_unnamed_word_refused :
    refusedWith (.unnamedWord .unnamedOpcode) (step (State.reset.withFetchWord 32 4)) = true := by decide +kernel

/-! ## Witnesses: for every statement with hypotheses, a state and operands that meet them -/

/-- The state before a request of FRAME.ENC on S9. -/
def beforeS9 : State :=
  { State.reset with inputs := [⟨⟨.cmd, 0⟩, some { zeroOperands with frame := frameS9 }⟩] }

theorem witness_ResetLeavesNothingPending : (onFrame frameS9).inputs = [] := rfl
theorem witness_OpCodesSelectTheEightOperations : 8 ≤ (8 : Word32).toNat ∧ 8 ≤ (0xFFFFFFFF : Word32).toNat := by decide
theorem witness_DecodeAndEncodeAgree : decode ⟨.cmd, 7⟩ = .ok .bcmEq ∧ decode ⟨.canFlag, 0x80000000⟩ = .ok .effFlag :=
  ⟨rfl, rfl⟩
theorem witness_StepPerformsTheDecodedRequest :
    ∃ (s : State) (inp : Input) (rest : List Input) (i : Instr), s.inputs = inp :: rest ∧ decode inp.word = .ok i :=
  ⟨beforeS9, _, _, .frameEnc, rfl, rfl⟩
theorem witness_StepTakesOneRequestAndResultsOnlyGrow :
    ∃ t, step beforeS9 = .next t ∧ t.results ≠ [] := ⟨_, rfl, by simp⟩
theorem witness_FrameEncWritesTheWireFrame :
    (onFrame frameS8).operands.frame.payloadLen.toNat = 8 ∧ (onFrame (mkFrame 1 0 9)).operands.frame.payloadLen.toNat = 9 := by
  decide
theorem witness_FrameDecReadsTheFields :
    (onBuf bytesF2).operands.buf.length = 16 ∧ (onBuf (bytesF2 ++ [0])).operands.buf.length = 17 ∧
    (onBuf (bytesF2.take 15)).operands.buf.length = 15 := by decide
theorem witness_FrameRoundTripGivesTheNormalForm :
    (mkFrame 0x1FFFFFFF 0 8).valid = true ∧ (mkFrame 0x800 0 0).valid = true ∧ (mkFrame 0x7FF 0 0).valid = true := by decide
theorem witness_FrameReencodingGivesTheBufferBackExactlyWhenCanonical :
    ({ zeroOperands with buf := bytesF6 }).buf.length = 16 := by decide
theorem witness_FrameRoundTripInEitherByteOrder : (mkFrame 0x1FFFFFFF 0b111 8).valid = true := by decide
/-- The largest and the smallest operand of the domain (V-T28 and the pattern next to -2147483649). -/
theorem witness_InDomain :
    InDomain (onSeconds 0x41DFFFFFFFFFFFFF).operands.seconds ∧ InDomain (onSeconds 0xC1E00000001FFFFF).operands.seconds ∧
    InDomain (onSeconds 0x8000000000000000).operands.seconds ∧ ¬ InDomain (onSeconds 0x41E0000000000000).operands.seconds := by
  refine ⟨⟨by decide, ?_, ?_⟩, ⟨by decide, ?_, ?_⟩, ⟨by decide, ?_, ?_⟩, fun h => absurd h.2.2 ?_⟩ <;> decide +kernel
/-- The clauses' bounds hold at the largest finite `Float`, and just below the limit (its sum with a quarter of its last unit). -/
theorem witness_FloatOperationsRoundOnceToNearestEven :
    Binary64.isFinite 0x7FEFFFFFFFFFFFFF = true ∧ Binary64.isFinite 0x7C80000000000000 = true ∧
    Binary64.isFinite 0xBFF0000000000000 = true ∧
    |value 0x7FEFFFFFFFFFFFFF + value 0x7C80000000000000| < roundingLimit ∧
    |value 0x7FEFFFFFFFFFFFFF - value 0x7C80000000000000| < roundingLimit ∧
    |value 0x7FEFFFFFFFFFFFFF * value 0xBFF0000000000000| < roundingLimit ∧
    value 0xBFF0000000000000 ≠ 0 ∧ |value 0x7FEFFFFFFFFFFFFF / value 0xBFF0000000000000| < roundingLimit ∧
    |((2 ^ 53 + 1 : Int) : ℚ)| < roundingLimit ∧ (-(2 ^ 53) : Int).natAbs ≤ 2 ^ 53 := by decide +kernel
theorem witness_FloatEqualityIsEqualityOfValues :
    Binary64.isNaN 0x7FF8000000000000 = true ∧ Binary64.isFinite 0x7FEFFFFFFFFFFFFF = true ∧
    Binary64.isFinite 0x8000000000000000 = true ∧ Binary64.isNaN 0x7FF0000000000000 = false ∧
    Binary64.isFinite 0x7FF0000000000000 = false := by decide
theorem witness_BcmEncWritesHeaderAndFrames :
    (∃ f ∈ [frameS8, mkFrame 1 0 9], 8 < f.payloadLen.toNat) ∧ (∀ f ∈ msgB1.frames, f.payloadLen.toNat ≤ 8) ∧
    msgB1.frames.length < 2 ^ 32 ∧ InDomain msgB1.interval1 ∧ InDomain msgB1.interval2 := by
  refine ⟨by decide, by decide, by decide, ⟨by decide, ?_, ?_⟩, ⟨by decide, ?_, ?_⟩⟩ <;> decide +kernel
theorem witness_BcmEncRefusesTooManyFrames :
    ∃ s : State, (∀ f ∈ s.operands.msg.frames, f.payloadLen.toNat ≤ 8) ∧ 2 ^ 32 ≤ s.operands.msg.frames.length := by
  have key : ∀ n : Nat, ∃ s : State, (∀ f ∈ s.operands.msg.frames, f.payloadLen.toNat ≤ 8) ∧
      n ≤ s.operands.msg.frames.length := fun n =>
    ⟨onMsg { msgB1 with frames := List.replicate n frameS8 },
      fun f hf => by rw [List.eq_of_mem_replicate hf]; decide, (List.length_replicate).ge⟩
  exact key (2 ^ 32)
theorem witness_BcmDecReadsHeaderAndFrames :
    (bytesB1.take 39).length < 40 ∧
    (40 ≤ (bytesB1.take 40).length ∧ (bytesB1.take 40).length ≠ 40 + 16 * (word32At (bytesB1.take 40) 32).toNat) ∧
    bytesB1.length = 40 + 16 * (word32At bytesB1 32).toNat ∧
    (List.replicate 40 0#8).length = 40 + 16 * (word32At (List.replicate 40 0#8) 32).toNat := by decide
theorem witness_BcmRoundTrip : ({ zeroOperands with msg := msgB1 }).msg.valid Config.hardware = true := by decide +kernel
theorem witness_BcmFlagBitsPassThrough :
    ((∀ f ∈ msgB2.frames, f.payloadLen.toNat ≤ 8) ∧ msgB2.frames.length < 2 ^ 32) ∧
    (onBuf bytesB1).operands.buf.length = 40 + 16 * (word32At bytesB1 32).toNat := by decide
theorem witness_EffForcedReportsEachForcedFrame :
    (∃ out, exec .frameEnc (onFrame frameS9) = .next ((onFrame frameS9).deliver (.ok out))) ∧
    (∃ out, exec .bcmEnc (onMsg msgB2) = .next ((onMsg msgB2).deliver (.ok out))) ∧
    ∃ out, exec .frameEq State.reset = .next (State.reset.deliver (.ok out)) := ⟨⟨_, rfl⟩, ⟨_, rfl⟩, ⟨_, rfl⟩⟩
/-- As in program P3: FRAME.DEC of an empty buffer fails, then FRAME.DEC of S8's bytes succeeds. -/
theorem witness_ErrorsLeaveNoTrace_operations :
    exec .frameDec State.reset = .next (State.reset.deliver (.error .lengthError)) ∧
    ∃ r, exec .frameDec (State.reset.withOperands (onBuf bytesF2).operands) =
      .next ((State.reset.withOperands (onBuf bytesF2).operands).deliver r) := ⟨rfl, _, rfl⟩
/-- The two requests of that program as the host's sequence. -/
def beforeP3 : State :=
  { State.reset with inputs := [request (.frameDec, zeroOperands), request (.frameDec, (onBuf bytesF2).operands)] }
theorem witness_ErrorsLeaveNoTrace_steps :
    ∃ (t u : State) (failed next : Input) (o : Operands) (e : ErrorKind) (r : Result),
      beforeP3.inputs = [failed, next] ∧ next.operands = some o ∧ step beforeP3 = .next t ∧
      t.results = beforeP3.results ++ [.error e] ∧ step { beforeP3 with inputs := [next] } = .next u ∧
      u.results = beforeP3.results ++ [r] :=
  ⟨_, _, _, _, _, .lengthError, _, rfl, rfl, rfl, rfl, rfl, rfl⟩
theorem witness_OperationsChangeNothingButTheResults :
    isOperation .frameEnc = true ∧ ∃ t, exec .frameEnc (onFrame frameS9) = .next t := ⟨by decide, _, rfl⟩
theorem witness_ResultDependsOnlyOnTheOperandsTaken :
    AgreeOn .frameDec (onBuf bytesF2).operands ({ zeroOperands with buf := bytesF2, frame := frameS9 }) ∧
    ∃ r, exec .frameDec (onBuf bytesF2) = .next ((onBuf bytesF2).deliver r) := ⟨rfl, _, rfl⟩
theorem witness_EveryAnswerableRequestIsAnswered :
    Answerable .bcmEnc { zeroOperands with msg := msgB1 } ∧ Answerable .ivalToWire zeroOperands :=
  ⟨⟨by decide, fun _ => .inl (by decide)⟩, ⟨by decide, fun h => by cases h⟩⟩
theorem witness_RunsDeliverOneResultPerRequestWhateverTheOrder :
    (∀ p ∈ [(Instr.frameEnc, zeroOperands), (.bcmDec, zeroOperands)], Answerable p.1 p.2) ∧
    ({ State.reset with inputs := [(Instr.frameEnc, zeroOperands), (.bcmDec, zeroOperands)].map request }).inputs =
      [(Instr.frameEnc, zeroOperands), (.bcmDec, zeroOperands)].map request := by
  refine ⟨?_, rfl⟩
  intro p hp
  simp at hp
  rcases hp with rfl | rfl <;> exact ⟨by decide, fun h => by cases h⟩
theorem witness_StepKeepsDeliveredResultsShaped : ResultsShaped beforeS9 ∧ ∃ t, step beforeS9 = .next t :=
  ⟨fun r hr => by simp [beforeS9] at hr, _, rfl⟩
theorem witness_StagedConstantsReachTheWire :
    isOperation .effFlag = false ∧ (encode .effFlag).fmt = .canFlag ∧
    (onFrame frameS9).operands.frame.payloadLen.toNat ≤ 8 ∧ isOperation .rxFilterId = false ∧
    (encode .rxFilterId).fmt = .bcmFlag ∧ isOperation .txSetup = false ∧ (encode .txSetup).fmt = .bcmOpcode ∧
    (∀ f ∈ msgB1.frames, f.payloadLen.toNat ≤ 8) ∧ msgB1.frames.length < 2 ^ 32 := by decide
theorem witness_constants_are_members :
    (Instr.rxChanged, (12 : Word32)) ∈ [(Instr.txSetup, (1 : Word32)), (.txDelete, 2), (.txRead, 3), (.rxSetup, 5),
      (.rxDelete, 6), (.rxRead, 7), (.rxStatus, 10), (.rxTimeout, 11), (.rxChanged, 12)] ∧
    (Instr.rxFilterId, 5) ∈ [(Instr.setTimer, 0), (.startTimer, 1), (.rxFilterId, 5)] ∧
    (Instr.effFlag, 2) ∈ [(Instr.errFlag, 0), (.rtrFlag, 1), (.effFlag, 2)] := by decide
theorem witness_MemReadAfterMemWriteAndItsFrame :
    12 + 4 ≤ bytesF2.length ∧ 2 ^ 32 - 1 < 2 ^ (8 * 4) ∧ 8 + 8 ≤ bytesF2.length ∧ 2 ^ 64 - 1 < 2 ^ (8 * 8) := by decide
theorem witness_MemReadSAfterMemWriteS :
    0 < 4 ∧ 12 + 4 ≤ bytesF2.length ∧ (-2 ^ (8 * 4 - 1) : Int) ≤ -2 ^ 31 ∧ (2 ^ 31 - 1 : Int) < 2 ^ (8 * 4 - 1) := by decide
theorem witness_MemReadIsTheWeightedSum : 15 + 1 ≤ bytesF2.length ∧ 8 + 8 ≤ bytesF2.length := by decide
theorem witness_OtherByteOrderReadsTheBytesReversed : 12 + 4 ≤ bytesF2.length := by decide
theorem witness_IntervalWidth64IsRefused : ({ Config.hardware with ivalW := .w64 }).ivalW = .w64 := rfl

end Sys2Proof.Tests
end

section
/-! A result depends only on the operand fields that the operation takes (10_state rules R13, R15). -/

namespace Sys2Proof.Machine

open Sys2Proof.Safety

/-- Delivering a result is what the eight operations do, and only they: the result is the one that `resultOf` gives for the
operand record. -/
theorem exec_eq_deliver_iff {i : Instr} {s : State} {r : Result} :
    exec i s = .next (s.deliver r) ↔ (encode i).fmt = .cmd ∧ resultOf i s.operands = some r := by
  constructor
  · intro hx
    by_cases hop : (encode i).fmt = .cmd
    · obtain ⟨r', hr', hd⟩ := exec_operation_next hop hx
      obtain rfl := State.deliver_inj.1 hd
      exact ⟨hop, hr'⟩
    · obtain ⟨g, hg⟩ | ⟨g, hg⟩ := exec_data i hop s
      · exact absurd (Host.Outcome.next.inj (hg.symm.trans hx)) (State.mapMsg_ne_deliver s g r)
      · exact absurd (Host.Outcome.next.inj (hg.symm.trans hx)) (State.mapFrame_ne_deliver s g r)
  · rintro ⟨hop, hr⟩
    rw [exec_operation i hop, hr]

/-- `resultOf` reads no operand field but those that its operation takes (rule R23). -/
theorem resultOf_eq_of_agreeOn {i : Instr} {a b : Operands} (h : AgreeOn i a b) : resultOf i a = resultOf i b := by
  cases i with
  | frameEnc =>
    have hframe : a.frame = b.frame := h
    simp only [resultOf, hframe]
  | frameDec | bcmDec =>
    have hbuf : a.buf = b.buf := h
    simp only [resultOf, hbuf]
  | ivalToWire =>
    have hseconds : a.seconds = b.seconds := h
    simp only [resultOf, hseconds]
  | ivalFromWire =>
    obtain ⟨hsec, husec⟩ := h
    simp only [resultOf, hsec, husec]
  | bcmEnc =>
    have hmsg : a.msg = b.msg := h
    simp only [resultOf, hmsg]
  | frameEq =>
    obtain ⟨hA, hB⟩ := h
    simp only [resultOf, hA, hB]
  | bcmEq =>
    obtain ⟨hA, hB⟩ := h
    simp only [resultOf, hA, hB]
  | txSetup | txDelete | txRead | rxSetup | rxDelete | rxRead | rxStatus | rxTimeout | rxChanged
  | setTimer | startTimer | rxFilterId | errFlag | rtrFlag | effFlag => rfl

/-- Settles O36: what is delivered is `resultOf` of the operand record, which agrees where the operands taken agree. -/
theorem resultDependsOnlyOnTheOperandsTaken : Obligations.ResultDependsOnlyOnTheOperandsTaken := by
  intro i s1 s2 r hagree hx
  obtain ⟨hop, hr⟩ := exec_eq_deliver_iff.1 hx
  exact exec_eq_deliver_iff.2 ⟨hop, (resultOf_eq_of_agreeOn hagree).symm.trans hr⟩

end Sys2Proof.Machine
end

section
/-! `MemRead` as the two weighted sums of rule R33 of 20_memory. -/

namespace Sys2Proof.Buffer

/-- The byte at index `k` of a field is the byte of the buffer at `off + k` (rule R10). -/
theorem getD_slice (buf : Buffer) (off : Nat) {n k : Nat} (h : k < n) (d : Byte) :
    (slice buf off n).getD k d = buf.getD (off + k) d := by
  simp [slice, List.getD_eq_getElem?_getD, List.getElem?_take_of_lt h]

/-- The byte at index `k` has the weight `256 ^ k` when the first byte is the least significant. -/
theorem toNatLE_eq_sum (bs : List Byte) :
    toNatLE bs = ∑ k ∈ Finset.range bs.length, (bs.getD k 0).toNat * 256 ^ k := by
  induction bs with
  | nil => rfl
  | cons b bs ih =>
    rw [List.length_cons, Finset.sum_range_succ', toNatLE, ih, Finset.mul_sum, Nat.add_comm]
    simp [pow_succ', Nat.mul_left_comm]

/-- The byte at index `k` has the weight `256 ^ (length - 1 - k)` when the last byte is the least significant: the sum for the
reversed bytes, taken from its other end. -/
theorem toNatLE_reverse_eq_sum (bs : List Byte) :
    toNatLE bs.reverse = ∑ k ∈ Finset.range bs.length, (bs.getD k 0).toNat * 256 ^ (bs.length - 1 - k) := by
  rw [toNatLE_eq_sum, List.length_reverse, ← Finset.sum_range_reflect]
  refine Finset.sum_congr rfl fun k hk => ?_
  have hk : k < bs.length := Finset.mem_range.1 hk
  have hmirror : bs.length - 1 - (bs.length - 1 - k) = k := by omega
  rw [List.getD_reverse _ (by omega), hmirror]

/-- Settles O47: the two sums over the field's bytes, each byte read in the buffer. -/
theorem memReadIsTheWeightedSum : Obligations.MemReadIsTheWeightedSum := by
  intro buf off n hfit
  have hlen : (slice buf off n).length = n := length_slice buf off n hfit
  constructor
  · rw [memRead, ordered, toNatLE_eq_sum, hlen]
    exact Finset.sum_congr rfl fun k hk => by rw [getD_slice buf off (Finset.mem_range.1 hk)]
  · rw [memRead, ordered, toNatLE_reverse_eq_sum, hlen]
    exact Finset.sum_congr rfl fun k hk => by rw [getD_slice buf off (Finset.mem_range.1 hk)]

end Sys2Proof.Buffer
end

section
/-! The flags word of a message in both directions of the BCM codec (30_encoding rules R51, R62). -/

namespace Sys2Proof.Laws.Wire

open Sys2Proof.Machine Sys2Proof.Safety

/-- The four bytes of a field, put together again, are the field (20_memory rule R33). -/
theorem word32At_append_le32 (pre : List Byte) (w : Word32) (post : List Byte) :
    word32At (pre ++ le32 w ++ post) pre.length = w := by
  have hbytes : w.extractLsb' 24 8 ++ w.extractLsb' 16 8 ++ w.extractLsb' 8 8 ++ w.extractLsb' 0 8 = w := by
    rw [BitVec.extractLsb'_append_extractLsb'_eq_extractLsb' (by rfl),
      BitVec.extractLsb'_append_extractLsb'_eq_extractLsb' (by rfl),
      BitVec.extractLsb'_append_extractLsb'_eq_extractLsb' (by rfl)]
    exact BitVec.extractLsb'_eq_self
  simpa [word32At, le32, List.getD_append_right] using hbytes

/-- An unsigned four-byte write puts the four bytes of the word (rule R34). -/
theorem memWrite_four (buf : Buffer) (off : Nat) (w : Word32) :
    Buffer.memWrite .little buf off 4 w.toNat = Buffer.overwrite buf off (le32 w) := by
  rw [Buffer.memWrite, Buffer.ordered, ofNatLE_four]

/-- A signed four-byte write puts the four bytes of the two's complement word (rule R36). -/
theorem memWriteS_four (buf : Buffer) (off : Nat) (w : SInt) :
    Buffer.memWriteS .little buf off 4 w.toInt = Buffer.overwrite buf off (le32 w) := by
  have hw : (w.toInt % 2 ^ (8 * 4)).toNat = w.toNat := by
    calc (w.toInt % 2 ^ (8 * 4)).toNat = (BitVec.ofInt 32 w.toInt).toNat := (BitVec.toNat_ofInt ..).symm
      _ = w.toNat := by rw [BitVec.ofInt_toInt]
  rw [Buffer.memWriteS, hw, memWrite_four]

/-- The header that BCM.ENC builds write by write is the layout of rule R51, when the frame count fits its field. -/
theorem bcmHeader_eq_wireHeader (m : BcmMessage) (pair1 pair2 : SInt × SInt) (h : m.frames.length < 2 ^ 32) :
    bcmHeader .little m pair1 pair2 = wireHeader m pair1 pair2 := by
  have hcount : m.frames.length = (BitVec.ofNat 32 m.frames.length).toNat := by
    rw [BitVec.toNat_ofNat, Nat.mod_eq_of_lt h]
  rw [bcmHeader, hcount]
  simp only [memWrite_four, memWriteS_four]
  simp [wireHeader, Buffer.overwrite, Buffer.zeros, Config.hdrSize, le32]

/-- The flags stand at offset 4 of a message's bytes (rules R51, R62). -/
theorem word32At_bcmBytes_flags (m : BcmMessage) (h : m.frames.length < 2 ^ 32) :
    word32At (bcmBytes Config.hardware m) 4 = m.flags := by
  rw [bcmBytes, hardware_byteOrder, bcmHeader_eq_wireHeader _ _ _ h]
  simp only [wireHeader, List.append_assoc]
  exact word32At_append_le32 (le32 m.opcode) m.flags _

end Sys2Proof.Laws.Wire

namespace Sys2Proof.Machine

open Sys2Proof.Safety Sys2Proof.Laws.Wire

/-- BCM.ENC of payloads of at most 8 bytes in fewer than 2^32 frames succeeds; the flags are not looked at (rule R93). -/
theorem exec_bcmEnc_ok (s : State) (hlen : ∀ f ∈ s.operands.msg.frames, f.payloadLen.toNat ≤ 8)
    (hcount : s.operands.msg.frames.length < 2 ^ 32) :
    exec .bcmEnc s = .next (s.deliver (.ok (.bcmEnc (bcmBytes Config.hardware s.operands.msg)
      (s.operands.msg.frames.map CanFrame.forced)))) := by
  have hshort : ¬ s.operands.msg.frames.any CanFrame.tooLong = true := by
    simpa [CanFrame.tooLong, Config.payloadMax] using hlen
  have hfits : s.operands.msg.countFits = true := decide_eq_true hcount
  refine exec_eq_deliver_iff.2 ⟨rfl, ?_⟩
  rw [resultOf, if_neg hshort, if_pos hfits]

/-- A buffer of the length that its own count field declares passes the chunk test (rules R97, R98). -/
theorem chunksMatch_of_length_eq {buf : Buffer} (h : buf.length = 40 + 16 * (word32At buf 32).toNat) :
    chunksMatch .little buf = true := by
  rw [chunksMatch, memRead_four buf 32 (by omega), h]
  simp [Config.hdrSize, Config.frameSize]

/-- BCM.DEC of a buffer of the length that its own count field declares succeeds (rule R97). -/
theorem exec_bcmDec_ok (s : State) (h : s.operands.buf.length = 40 + 16 * (word32At s.operands.buf 32).toNat) :
    exec .bcmDec s = .next (s.deliver (.ok (.bcmDec (bcmFields Config.hardware s.operands.buf)))) := by
  refine exec_eq_deliver_iff.2 ⟨rfl, ?_⟩
  rw [resultOf, if_neg (by omega), if_pos (chunksMatch_of_length_eq h)]

/-- The decoded flags are the whole word at offset 4 (rules R62, R97). -/
theorem bcmFields_flags (buf : Buffer) (h : 8 ≤ buf.length) :
    (bcmFields Config.hardware buf).flags = word32At buf 4 := by
  rw [bcmFields, hardware_byteOrder, memRead_four buf 4 h, BitVec.ofNat_toNat, BitVec.setWidth_eq]

/-- Settles O28: neither codec tests the flags, the encoder writes them whole at offset 4 and the decoder reads them from there. -/
theorem bcmFlagBitsPassThrough : Obligations.BcmFlagBitsPassThrough := by
  constructor
  · intro s hlen hcount
    exact ⟨_, _, exec_bcmEnc_ok s hlen hcount, word32At_bcmBytes_flags _ hcount⟩
  · intro s h
    exact ⟨_, exec_bcmDec_ok s h, bcmFields_flags _ (by omega)⟩

end Sys2Proof.Machine
end

section
/-! The Frame Codec against the layout of 30_encoding rule R46: what FRAME.ENC writes, what FRAME.DEC reads, and what FRAME.EQ
compares (40_frame rules R69, R72, R75). -/

namespace Sys2Proof.Buffer

/-- Bytes written where the first part of a buffer ends leave that part, and cover the start of the rest. -/
theorem overwrite_append (pre post : Buffer) (bytes : List Byte) :
    overwrite (pre ++ post) pre.length bytes = pre ++ bytes ++ post.drop bytes.length := by
  simp [overwrite, List.drop_append]

/-- A one-byte write puts the byte itself, in either byte order (20_memory rules R34, R37). -/
theorem memWrite_one (o : ByteOrder) (buf : Buffer) (off : Nat) (b : Byte) :
    memWrite o buf off 1 b.toNat = overwrite buf off [b] := by
  cases o <;> simp [memWrite, ordered, ofNatLE]

end Sys2Proof.Buffer

namespace Sys2Proof.Laws.Wire

open Sys2Proof.Machine Sys2Proof.Safety

theorem payload_length (f : CanFrame) : f.payload.length = min f.payloadLen.toNat 8 := by
  simp [CanFrame.payload]

theorem payload_getElem {f : CanFrame} {i : Nat} (h : i < f.payload.length) :
    f.payload[i] = f.payloadData[i]'(by rw [payload_length] at h; omega) := by
  simp [CanFrame.payload]

/-- The model's test for a forced EFF is the one of rule R68. -/
theorem forced_eq_mustForce (f : CanFrame) : f.forced = mustForce f := rfl

/-- The flag of a forced EFF lands on bit 31 of the identifier word (rules R18, R69). -/
theorem flagWord_wireFlags (f : CanFrame) :
    flagWord f.wireFlags = (f.flags.setWidth 32 <<< 29) ||| (if mustForce f then 0x80000000#32 else 0#32) := by
  rw [flagWord, CanFrame.wireFlags, BitVec.setWidth_or, BitVec.shiftLeft_or_distrib, forced_eq_mustForce]
  cases mustForce f <;> rfl

/-- The identifier word of rule R69, for reserved identifiers also (rule R71). -/
theorem frameWord_eq (f : CanFrame) :
    frameWord f =
      f.identifier ||| (f.flags.setWidth 32 <<< 29) ||| (if mustForce f then 0x80000000#32 else 0#32) := by
  rw [frameWord, flagWord_wireFlags, BitVec.or_assoc]

/-- The payload followed by zeros fills the payload area (rules R48, R69). -/
theorem payload_append_zeros (f : CanFrame) :
    f.payload ++ Buffer.zeros (8 - f.payload.length) =
      List.ofFn (fun i : Fin 8 => if i.val < f.payloadLen.toNat then f.payloadData[i] else 0#8) := by
  have hlen := payload_length f
  apply List.ext_getElem
  · simp; omega
  · intro i hi hi'
    have hi8 : i < 8 := by simpa using hi'
    rw [List.getElem_ofFn]
    by_cases hin : i < f.payload.length
    · have hdata : i < f.payloadLen.toNat := by omega
      rw [List.getElem_append_left hin, payload_getElem]
      simp [hdata]
    · have hpad : ¬ i < f.payloadLen.toNat := by omega
      rw [List.getElem_append_right (by omega)]
      simp [Buffer.zeros, hpad]

/-- The first two writes of the encoder leave the identifier word, the length byte, and zeros (rule R69). -/
theorem frameHeader_writes (w : Word32) (len : Byte) :
    Buffer.memWrite .little (Buffer.memWrite .little (Buffer.zeros 16) 0 4 w.toNat) 4 1 len.toNat =
      (le32 w ++ [len, 0#8, 0#8, 0#8]) ++ Buffer.zeros 8 := by
  rw [memWrite_four, Buffer.memWrite_one]
  rfl

/-- The sixteen bytes that FRAME.ENC builds write by write are the layout of rule R46. -/
theorem frameBytes_eq_wireFrame (f : CanFrame) : frameBytes .little f = wireFrame f := by
  have harea : (Buffer.zeros 8).drop f.payload.length = Buffer.zeros (8 - f.payload.length) := List.drop_replicate
  calc frameBytes .little f
      = Buffer.overwrite ((le32 (frameWord f) ++ [f.payloadLen, 0#8, 0#8, 0#8]) ++ Buffer.zeros 8) 8 f.payload := by
        rw [frameBytes, frameHeader_writes]
    _ = le32 (frameWord f) ++ [f.payloadLen, 0#8, 0#8, 0#8] ++ (f.payload ++ Buffer.zeros (8 - f.payload.length)) := by
        rw [← harea, ← List.append_assoc]
        exact Buffer.overwrite_append (le32 (frameWord f) ++ [f.payloadLen, 0#8, 0#8, 0#8]) _ _
    _ = wireFrame f := by rw [payload_append_zeros, frameWord_eq, wireFrame]

/-- Masking the top three bits and shifting them down reads bits 31 to 29 (rule R47). -/
theorem flagsOfWord_eq_extractLsb' (w : Word32) : flagsOfWord w = w.extractLsb' 29 3 := by
  ext i hi
  have hmask : Config.flagMask.getLsbD (29 + i) = true := by
    interval_cases i <;> rfl
  simp [flagsOfWord, hmask]

/-- The fields that FRAME.DEC reads are those of the layout of rule R46. -/
theorem frameFields_eq_readFrame {buf : Buffer} (h : buf.length = 16) : frameFields .little buf = readFrame buf := by
  have hword : BitVec.ofNat 32 (Buffer.memRead .little buf 0 4) = word32At buf 0 := by
    rw [memRead_four buf 0 (by omega), BitVec.ofNat_toNat, BitVec.setWidth_eq]
  have hcount : Buffer.memRead .little buf 4 1 = (buf.getD 4 0#8).toNat := memRead_one buf 4 (by omega)
  simp only [frameFields, hword, hcount, flagsOfWord_eq_extractLsb']
  rfl

/-- Under equal lengths, equal payloads are equal bytes below the length, of the eight carried (rules R19, R75). -/
theorem payload_eq_iff {a b : CanFrame} (hlen : a.payloadLen = b.payloadLen) :
    a.payload = b.payload ↔ ∀ i : Fin 8, i.val < a.payloadLen.toNat → a.payloadData[i] = b.payloadData[i] := by
  have ha := payload_length a
  have hb := payload_length b
  rw [← hlen] at hb
  constructor
  · intro h i hi
    have hi' : i.val < a.payload.length := by omega
    calc a.payloadData[i] = a.payload[i.val] := (payload_getElem hi').symm
      _ = b.payload[i.val]'(by omega) := by simp only [h]
      _ = b.payloadData[i] := payload_getElem _
  · intro h
    refine List.ext_getElem (by omega) fun i hi hi' => ?_
    rw [payload_getElem, payload_getElem]
    exact h ⟨i, by omega⟩ (by simp only; omega)

/-- FRAME.EQ compares what rule R75 lists. -/
theorem frameEqual_iff_sameFrame (a b : CanFrame) : frameEqual a b = true ↔ SameFrame a b := by
  simp only [frameEqual, SameFrame, Bool.and_eq_true, beq_iff_eq, and_assoc]
  exact and_congr_right fun _ => and_congr_right fun _ => and_congr_right payload_eq_iff

end Sys2Proof.Laws.Wire

namespace Sys2Proof.Machine

open Sys2Proof.Safety Sys2Proof.Laws.Wire

/-- Settles O7: the length test comes first, and the encoder's writes give the layout with the forced EFF. -/
theorem frameEncWritesTheWireFrame : Obligations.FrameEncWritesTheWireFrame := by
  intro s
  constructor
  · intro hlen
    have hshort : ¬ s.operands.frame.tooLong = true := by simpa [CanFrame.tooLong, Config.payloadMax] using hlen
    refine exec_eq_deliver_iff.2 ⟨rfl, ?_⟩
    rw [resultOf, if_neg hshort, frameBytes_eq_wireFrame, forced_eq_mustForce]
  · intro hlen
    have hlong : s.operands.frame.tooLong = true := decide_eq_true hlen
    refine exec_eq_deliver_iff.2 ⟨rfl, ?_⟩
    rw [resultOf, if_pos hlong]

/-- Settles O8: the length test comes first, and a buffer of 16 bytes is read field by field. -/
theorem frameDecReadsTheFields : Obligations.FrameDecReadsTheFields := by
  intro s
  constructor
  · intro h
    refine exec_eq_deliver_iff.2 ⟨rfl, ?_⟩
    rw [resultOf, if_neg (not_not_intro h), frameFields_eq_readFrame h]
  · intro h
    refine exec_eq_deliver_iff.2 ⟨rfl, ?_⟩
    rw [resultOf, if_pos h]

/-- Settles O9: the Bool delivered is `frameEqual` of the two operands. -/
theorem frameEqIsStructural : Obligations.FrameEqIsStructural := fun s =>
  ⟨frameEqual s.operands.frameA s.operands.frameB, exec_eq_deliver_iff.2 ⟨rfl, rfl⟩, frameEqual_iff_sameFrame _ _⟩

end Sys2Proof.Machine
end

section
/-! Rounding to binary64: the significand and shift of a rounded fraction, when rounding is exact, and the power of two that it never
passes (41_interval rule R78). -/

namespace Sys2Proof.Binary64

/-- 1.0 counts a power of two of the units. The exponent is a variable here, so that no tactic evaluates the power. -/
theorem one_eq_two_pow : ∃ k ≤ 1074, one = 2 ^ k := by
  refine ⟨1074, le_rfl, ?_⟩
  unfold one
  generalize 1074 = k
  exact Nat.one_shiftLeft k

theorem one_pos : 0 < one := by decide

/-- The nearest integer is one of the two around the fraction. -/
theorem le_nearestEven (num den : Nat) : num / den ≤ nearestEven num den := by
  simp only [nearestEven]
  split <;> omega

theorem nearestEven_le_succ (num den : Nat) : nearestEven num den ≤ num / den + 1 := by
  simp only [nearestEven]
  split <;> omega

/-- An integer is its own nearest integer. -/
theorem nearestEven_mul (b : Nat) {den : Nat} (hd : 0 < den) : nearestEven (b * den) den = b := by
  simp only [nearestEven, Nat.mul_mod_left, Nat.mul_div_cancel b hd]
  exact if_neg (by omega)

/-- Rounding does not pass an integer. -/
theorem nearestEven_le {num den b : Nat} (hd : 0 < den) (h : num ≤ b * den) : nearestEven num den ≤ b := by
  rcases h.eq_or_lt with rfl | hlt
  · exact (nearestEven_mul b hd).le
  · have hq : num / den < b := (Nat.div_lt_iff_lt_mul hd).2 hlt
    have hsucc := nearestEven_le_succ num den
    omega

/-- Without the bits that `shiftOf` counts, at most 53 remain. -/
theorem div_shift_lt (num den : Nat) : num / den / 2 ^ shiftOf num den < 2 ^ 53 := by
  rw [Nat.div_lt_iff_lt_mul (Nat.two_pow_pos _), ← pow_add]
  calc num / den < 2 ^ ((num / den).log2 + 1) := Nat.lt_log2_self
    _ ≤ 2 ^ (53 + shiftOf num den) := Nat.pow_le_pow_right (by decide) (by rw [shiftOf]; omega)

/-- Where `shiftOf` counts any bits, all 53 remain. -/
theorem le_div_shift {num den : Nat} (hk : shiftOf num den ≠ 0) : 2 ^ 52 ≤ num / den / 2 ^ shiftOf num den := by
  have hlog : (num / den).log2 = 52 + shiftOf num den := by rw [shiftOf] at hk ⊢; omega
  have hq : num / den ≠ 0 := fun h0 => by rw [h0, Nat.log2_zero] at hlog; omega
  rw [Nat.le_div_iff_mul_le (Nat.two_pow_pos _), ← pow_add, ← hlog]
  exact Nat.log2_self_le hq

theorem shiftOf_le {num den e : Nat} (h : num < 2 ^ (e + 1) * den) : shiftOf num den ≤ e - 52 := by
  have hq : num / den < 2 ^ (e + 1) := Nat.div_lt_of_lt_mul (by rwa [Nat.mul_comm] at h)
  have hlog : (num / den).log2 < e + 1 := by
    by_cases h0 : num / den = 0
    · simp [h0]
    · exact (Nat.log2_lt h0).2 hq
  rw [shiftOf]
  omega

/-- The significand of the rounded fraction has at most 53 bits or is their carry, and all 53 where bits are lost: it is one that
`mag_pack` reads back. -/
theorem significand_fits (num den : Nat) :
    nearestEven num (den <<< shiftOf num den) ≤ 2 ^ 53 ∧
      (shiftOf num den = 0 ∨ 2 ^ 52 ≤ nearestEven num (den <<< shiftOf num den)) := by
  have hlo := le_nearestEven num (den <<< shiftOf num den)
  have hhi := nearestEven_le_succ num (den <<< shiftOf num den)
  have hlt := div_shift_lt num den
  have hge := @le_div_shift num den
  have hdiv : num / (den <<< shiftOf num den) = num / den / 2 ^ shiftOf num den := by
    rw [Nat.shiftLeft_eq, Nat.div_div_eq_div_mul]
  omega

/-- A shift of at most 2044 leaves room for the carry below infinity: rounding gives a finite `Float`, whose magnitude is the rounded
significand times the power of two that was divided out. -/
theorem round_spec (neg : Bool) {num den : Nat} (hk : shiftOf num den ≤ 2044) :
    isFinite (round neg num den) = true ∧
      mag (round neg num den) = nearestEven num (den <<< shiftOf num den) * 2 ^ shiftOf num den := by
  obtain ⟨hle, hge⟩ := significand_fits num den
  have hlt : shiftOf num den * 2 ^ 52 + nearestEven num (den <<< shiftOf num den) < 2047 * 2 ^ 52 := by omega
  rw [round, roundMag, min_eq_left hlt.le]
  exact ⟨isFinite_pack _ _ hlt, mag_pack _ _ _ hle hge hlt⟩

@[simp] theorem sign_round (neg : Bool) (num den : Nat) : sign (round neg num den) = neg := sign_pack _ _

/-- Rounding keeps a magnitude of which every bit that `shiftOf` counts is zero. -/
theorem round_of_dvd (neg : Bool) {num : Nat} (hk : shiftOf num 1 ≤ 2044) (hdvd : 2 ^ shiftOf num 1 ∣ num) :
    isFinite (round neg num 1) = true ∧ mag (round neg num 1) = num := by
  obtain ⟨b, hb⟩ := hdvd
  have hnear := nearestEven_mul b (Nat.two_pow_pos (shiftOf num 1))
  rw [Nat.mul_comm, ← hb] at hnear
  obtain ⟨hfin, hmag⟩ := round_spec neg hk
  refine ⟨hfin, ?_⟩
  rw [hmag, Nat.one_shiftLeft, hnear, Nat.mul_comm, ← hb]

/-- Rounding does not pass a power of two. -/
theorem round_le_two_pow (neg : Bool) {num den e : Nat} (hd : 0 < den) (he : e ≤ 2096) (h : num ≤ 2 ^ e * den) :
    isFinite (round neg num den) = true ∧ mag (round neg num den) ≤ 2 ^ e := by
  have hk : shiftOf num den ≤ e - 52 :=
    shiftOf_le (h.trans_lt (Nat.mul_lt_mul_of_pos_right (Nat.pow_lt_pow_succ (by decide)) hd))
  obtain ⟨hfin, hmag⟩ := round_spec neg (hk.trans (by omega))
  have hsplit : 2 ^ (e - shiftOf num den) * 2 ^ shiftOf num den = 2 ^ e := pow_sub_mul_pow 2 (by omega)
  refine ⟨hfin, ?_⟩
  rw [hmag, ← hsplit]
  refine Nat.mul_le_mul_right _ (nearestEven_le ?_ ?_)
  · rw [Nat.shiftLeft_eq]; positivity
  · rw [Nat.shiftLeft_eq, Nat.mul_left_comm, hsplit, Nat.mul_comm]; exact h

end Sys2Proof.Binary64
end

section
/-! The arithmetic of 41_interval rule R78 as the Interval Codec uses it: signed magnitudes under negation, the exact `float(i)`, and
truncation as integer division. -/

namespace Sys2Proof.Binary64

theorem natAbs_units (x : Binary64) : (units x).natAbs = mag x := by
  rw [units]
  split <;> simp

@[simp] theorem sign_neg (x : Binary64) : sign (neg x) = !sign x := by
  simp [sign, neg]

@[simp] theorem expo_neg (x : Binary64) : expo (neg x) = expo x := by
  have hlow : (1#64 <<< 63).extractLsb' 52 11 = 0#11 := by decide
  rw [expo, neg, BitVec.extractLsb'_xor, hlow, BitVec.xor_zero, expo]

@[simp] theorem frac_neg (x : Binary64) : frac (neg x) = frac x := by
  have hlow : (1#64 <<< 63).extractLsb' 0 52 = 0#52 := by decide
  rw [frac, neg, BitVec.extractLsb'_xor, hlow, BitVec.xor_zero, frac]

@[simp] theorem isFinite_neg (x : Binary64) : isFinite (neg x) = isFinite x := by
  rw [isFinite, expo_neg, isFinite]

@[simp] theorem mag_neg (x : Binary64) : mag (neg x) = mag x := by
  rw [mag, expo_neg, frac_neg, mag]

@[simp] theorem units_neg (x : Binary64) : units (neg x) = -units x := by
  rw [units, units, sign_neg, mag_neg]
  cases sign x <;> simp

/-- `float(i)` is exact for an integer of at most 53 bits. -/
theorem ofInt_exact {i : Int} (h : i.natAbs < 2 ^ 53) : isFinite (ofInt i) = true ∧ units (ofInt i) = i * one := by
  obtain ⟨k, hk, hone⟩ := one_eq_two_pow
  have hnum : i.natAbs * one < 2 ^ (52 + k + 1) * 1 := by
    rw [hone, Nat.mul_one, Nat.add_right_comm, pow_add]
    exact Nat.mul_lt_mul_of_pos_right h (Nat.two_pow_pos k)
  have hshift : shiftOf (i.natAbs * one) 1 ≤ k := (shiftOf_le hnum).trans_eq (Nat.add_sub_cancel_left ..)
  have hfits : shiftOf (i.natAbs * one) 1 ≤ 2044 := by omega
  have hdvd : 2 ^ shiftOf (i.natAbs * one) 1 ∣ i.natAbs * one :=
    calc 2 ^ shiftOf (i.natAbs * one) 1 ∣ 2 ^ k := pow_dvd_pow 2 hshift
      _ = one := hone.symm
      _ ∣ i.natAbs * one := Nat.dvd_mul_left one i.natAbs
  obtain ⟨hfin, hmag⟩ := round_of_dvd (decide (i < 0)) hfits hdvd
  refine ⟨hfin, ?_⟩
  rw [ofInt, units, hmag, sign_round, Nat.cast_mul]
  by_cases hi : i < 0
  · rw [if_pos (decide_eq_true hi), Int.ofNat_natAbs_of_nonpos hi.le, neg_mul, neg_neg]
  · rw [if_neg (by simpa using hi), Int.natAbs_of_nonneg (by omega)]

/-- `trunc` is the integer division that drops the fraction (00_scope rule R11). -/
theorem trunc_eq_tdiv {x : Binary64} (h : isFinite x = true) : trunc x = (units x).tdiv one := by
  rw [trunc, if_pos h, units]
  split
  · rw [Int.neg_tdiv, Int.ofNat_tdiv]
  · rw [Int.ofNat_tdiv]

theorem natAbs_trunc {x : Binary64} (h : isFinite x = true) : (trunc x).natAbs = mag x / one := by
  rw [trunc_eq_tdiv h, Int.natAbs_tdiv, natAbs_units]
  rfl

/-- What `x - float(trunc(x))` rounds is a fraction of magnitude less than 1, so the rounded difference is at most 1. -/
theorem fsub_trunc_le_one {x : Binary64} (h : isFinite x = true) (hsec : (trunc x).natAbs < 2 ^ 53) :
    isFinite (fsub x (ofInt (trunc x))) = true ∧ mag (fsub x (ofInt (trunc x))) ≤ one := by
  obtain ⟨hfin, hunits⟩ := ofInt_exact hsec
  have hrem : units x + units (neg (ofInt (trunc x))) = (units x).tmod one := by
    rw [units_neg, hunits, trunc_eq_tdiv h, Int.tmod_def]
    ring
  have hlt : ((units x).tmod one).natAbs ≤ one := by
    rw [Int.natAbs_tmod]
    exact (Nat.mod_lt _ one_pos).le
  obtain ⟨k, hk, hone⟩ := one_eq_two_pow
  rw [fsub, fadd, h, isFinite_neg, hfin, hrem]
  rw [hone] at hlt ⊢
  exact round_le_two_pow _ Nat.one_pos (by omega) (by rwa [Nat.mul_one])

/-- Where one factor is at most 1, the rounded product does not pass a power of two that bounds the other. -/
theorem fmul_le_two_pow {a b : Binary64} {e : Nat} (ha : isFinite a = true) (hb : isFinite b = true) (he : e ≤ 2096)
    (hone : mag a ≤ one) (hmag : mag b ≤ 2 ^ e) : isFinite (fmul a b) = true ∧ mag (fmul a b) ≤ 2 ^ e := by
  rw [fmul, ha, hb]
  exact round_le_two_pow _ one_pos he (by rw [Nat.mul_comm]; exact Nat.mul_le_mul hmag hone)

theorem mag_usecPerSec : mag Config.usecPerSec = 1000000 * one := by decide

end Sys2Proof.Binary64
end

section
/-! The Interval Codec follows its formulas (41_interval rules R80, R85): narrowing to 32 bits loses nothing in the domain. -/

namespace Sys2Proof.Interval

open Sys2Proof.Safety

/-- A value counts its units, of which 1.0 has `one`. -/
theorem value_eq_units_div_one (x : Binary64) : value x = (Binary64.units x : ℚ) / ((Binary64.one : Int) : ℚ) := by
  unfold value Binary64.one
  generalize 1074 = k
  rw [Nat.one_shiftLeft, Int.cast_natCast, Nat.cast_pow, Nat.cast_ofNat]

/-- An integer division truncated toward zero stays below a positive bound of the fraction. -/
theorem tdiv_lt_of_lt_mul {a c n : Int} (hc : 0 < c) (hn : 0 < n) (h : a < n * c) : a.tdiv c < n := by
  rcases le_total 0 a with ha | ha
  · rw [Int.tdiv_eq_ediv_of_nonneg ha]
    exact Int.ediv_lt_of_lt_mul hc h
  · calc a.tdiv c ≤ (0 : Int).tdiv c := Int.tdiv_le_tdiv hc ha
      _ = 0 := Int.zero_tdiv c
      _ < n := hn

/-- In the domain `sec` is a 32-bit integer (rules R79, R82). -/
theorem trunc_bounds {x : Binary64} (h : InDomain x) : -2 ^ 31 ≤ Binary64.trunc x ∧ Binary64.trunc x < 2 ^ 31 := by
  obtain ⟨hfin, hlo, hhi⟩ := h
  have hone : (0 : Int) < Binary64.one := Int.natCast_pos.2 Binary64.one_pos
  have honeQ : (0 : ℚ) < ((Binary64.one : Int) : ℚ) := Int.cast_pos.2 hone
  rw [value_eq_units_div_one, lt_div_iff₀ honeQ] at hlo
  rw [value_eq_units_div_one, div_lt_iff₀ honeQ] at hhi
  norm_cast at hlo hhi
  have hneg := tdiv_lt_of_lt_mul (a := -Binary64.units x) (n := 2147483649) hone (by decide) (by omega)
  have hpos := tdiv_lt_of_lt_mul (n := 2147483648) hone (by decide) hhi
  rw [Int.neg_tdiv] at hneg
  rw [Binary64.trunc_eq_tdiv hfin]
  omega

/-- What rule R80 computes for `usec`, before it is narrowed. -/
def usecOf (x : Binary64) : Int :=
  Binary64.trunc (Binary64.fmul (Binary64.fsub x (Binary64.ofInt (Binary64.trunc x))) Config.usecPerSec)

theorem toWire_arith (x : Binary64) :
    toWire Binary64.arith x = (BitVec.ofInt 32 (Binary64.trunc x), BitVec.ofInt 32 (usecOf x)) := rfl

/-- In the domain `usec` has at most 20 bits and a sign: the fraction of `seconds` is at most 1 after rounding, and 1000000 is less
than 2^20. -/
theorem natAbs_usecOf_le {x : Binary64} (h : InDomain x) : (usecOf x).natAbs ≤ 2 ^ 20 := by
  obtain ⟨hlo, hhi⟩ := trunc_bounds h
  obtain ⟨hdfin, hd⟩ := Binary64.fsub_trunc_le_one h.1 (by omega)
  obtain ⟨k, hk, hone⟩ := Binary64.one_eq_two_pow
  have hfactor : Binary64.mag Config.usecPerSec ≤ 2 ^ (20 + k) := by
    rw [Binary64.mag_usecPerSec, hone, pow_add]
    exact Nat.mul_le_mul_right _ (by decide)
  obtain ⟨hpfin, hp⟩ := Binary64.fmul_le_two_pow hdfin (by decide) (by omega) hd hfactor
  rw [usecOf, Binary64.natAbs_trunc hpfin]
  refine Nat.div_le_of_le_mul (hp.trans_eq ?_)
  rw [hone, pow_add, Nat.mul_comm]

/-- The model's test for the domain accepts the domain of rule R79. -/
theorem inDomain_arith {x : Binary64} (h : InDomain x) : inDomain Binary64.arith x = true := by
  obtain ⟨hlo, hhi⟩ := trunc_bounds h
  rw [inDomain, h.1, Bool.true_and, Bool.and_eq_true]
  exact ⟨decide_eq_true hlo, decide_eq_true hhi⟩

/-- In the domain narrowing drops nothing: the halves, read as integers, are the truncations of rule R80 (log 26). -/
theorem toInt_toWire {x : Binary64} (h : InDomain x) :
    (toWire Binary64.arith x).1.toInt = Binary64.trunc x ∧ (toWire Binary64.arith x).2.toInt = usecOf x := by
  obtain ⟨hlo, hhi⟩ := trunc_bounds h
  have husec := natAbs_usecOf_le h
  rw [toWire_arith]
  exact ⟨BitVec.toInt_ofInt_eq_self (by decide) hlo hhi, BitVec.toInt_ofInt_eq_self (by decide) (by omega) (by omega)⟩

end Sys2Proof.Interval

namespace Sys2Proof.Machine

open Sys2Proof.Safety

/-- Settles O14: the operand is in the model's domain, and both halves keep their value in 32 bits. -/
theorem ivalToWireFollowsItsFormula : Obligations.IvalToWireFollowsItsFormula := by
  intro s h
  obtain ⟨hsec, husec⟩ := Interval.toInt_toWire h
  refine ⟨_, _, exec_eq_deliver_iff.2 ⟨rfl, ?_⟩, hsec, husec⟩
  rw [resultOf, Interval.toWireOr, if_pos (Interval.inDomain_arith h)]

/-- Settles O18: IVAL.FROMWIRE looks at nothing but the pair, and has no case in which it refuses one. -/
theorem ivalFromWireFollowsItsFormula : Obligations.IvalFromWireFollowsItsFormula := fun _ =>
  exec_eq_deliver_iff.2 ⟨rfl, rfl⟩

end Sys2Proof.Machine
end

section
/-! BCM.EQ compares the seven fields of rule R101 of 42_bcm, the frames pairwise in order. -/

namespace Sys2Proof.Laws.Wire

open Sys2Proof.Machine Sys2Proof.Safety

/-- Lists of one length whose zipped pairs all pass FRAME.EQ are the pairwise equal lists (rule R101). -/
theorem framesEqual_iff_forall₂ (xs ys : List CanFrame) :
    (xs.length = ys.length ∧ ((xs.zip ys).all fun p => frameEqual p.1 p.2) = true) ↔ List.Forall₂ SameFrame xs ys := by
  rw [List.forall₂_iff_zip]
  refine and_congr_right fun _ => ?_
  simp only [List.all_eq_true, Prod.forall, frameEqual_iff_sameFrame]

/-- The model's test of two messages, spelled out (rule R101). -/
theorem bcmEqual_iff (a b : BcmMessage) :
    bcmEqual a b = true ↔
      a.opcode = b.opcode ∧ a.flags = b.flags ∧ a.repeatCount = b.repeatCount ∧
        Binary64.feq a.interval1 b.interval1 = true ∧ Binary64.feq a.interval2 b.interval2 = true ∧
        a.identifier = b.identifier ∧ List.Forall₂ SameFrame a.frames b.frames := by
  rw [← framesEqual_iff_forall₂]
  simp only [bcmEqual, Bool.and_eq_true, beq_iff_eq, and_assoc]

end Sys2Proof.Laws.Wire

namespace Sys2Proof.Machine

/-- Settles O26: the Bool delivered is `bcmEqual` of the two operands. -/
theorem bcmEqIsStructural : Obligations.BcmEqIsStructural := fun s =>
  ⟨bcmEqual s.operands.msgA s.operands.msgB, exec_eq_deliver_iff.2 ⟨rfl, rfl⟩, Laws.Wire.bcmEqual_iff _ _⟩

end Sys2Proof.Machine
end

section
/-! BCM.ENC writes the header of rule R51 and then the frames, and forces what FRAME.ENC forces (42_bcm rules R93, R95). -/

namespace Sys2Proof.Laws.Wire

open Sys2Proof.Machine Sys2Proof.Safety

/-- The bytes of a message are the header's layout and then the layouts of its frames in list order (rule R93). -/
theorem bcmBytes_eq_wire (m : BcmMessage) (h : m.frames.length < 2 ^ 32) :
    bcmBytes Config.hardware m =
      wireHeader m (m.wirePair Binary64.arith .first) (m.wirePair Binary64.arith .second) ++
        (m.frames.map wireFrame).flatten := by
  have hframes : frameBytes .little = wireFrame := funext frameBytes_eq_wireFrame
  rw [bcmBytes, hardware_byteOrder, hardware_arith, bcmHeader_eq_wireHeader _ _ _ h, hframes]

end Sys2Proof.Laws.Wire

namespace Sys2Proof.Machine

open Sys2Proof.Safety Sys2Proof.Laws.Wire

/-- In the domain the wire pair of an interval is not free (rules R80, R93). -/
theorem wirePair_of_inDomain {m : BcmMessage} {slot : IntervalSlot} (h : InDomain (m.interval slot)) :
    m.wirePair Binary64.arith slot = Interval.toWire Binary64.arith (m.interval slot) := by
  rw [BcmMessage.wirePair, Interval.toWireOr, if_pos (Interval.inDomain_arith h)]

/-- One payload of more than 8 bytes is enough for the error, whatever the number of frames (rule R95). -/
theorem exec_bcmEnc_payloadTooLarge (s : State) (h : ∃ f ∈ s.operands.msg.frames, 8 < f.payloadLen.toNat) :
    exec .bcmEnc s = .next (s.deliver (.error .payloadTooLarge)) := by
  have hlong : s.operands.msg.frames.any CanFrame.tooLong = true := by
    simpa [CanFrame.tooLong, Config.payloadMax] using h
  refine exec_eq_deliver_iff.2 ⟨rfl, ?_⟩
  rw [resultOf, if_pos hlong]

/-- Settles O23: the payload test comes first, and the bytes of a message that passes it are its layout, with the model's wire pairs
for the two intervals. -/
theorem bcmEncWritesHeaderAndFrames : Obligations.BcmEncWritesHeaderAndFrames := by
  intro s
  refine ⟨exec_bcmEnc_payloadTooLarge s, fun hlen hcount => ?_⟩
  refine ⟨_, _, wirePair_of_inDomain (slot := .first), wirePair_of_inDomain (slot := .second), ?_⟩
  rw [exec_bcmEnc_ok s hlen hcount, bcmBytes_eq_wire _ hcount]
  rfl

end Sys2Proof.Machine
end

section
/-! BCM.DEC reads the header of rule R51 field by field and then the declared number of chunks (42_bcm rules R97, R98). -/

namespace Sys2Proof.Laws.Wire

open Sys2Proof.Machine Sys2Proof.Safety

/-- A four-byte read gives the word at the offset (20_memory rule R33). -/
theorem ofNat_memRead_four {buf : Buffer} {off : Nat} (h : off + 4 ≤ buf.length) :
    BitVec.ofNat 32 (Buffer.memRead .little buf off 4) = word32At buf off := by
  rw [memRead_four buf off h, BitVec.ofNat_toNat, BitVec.setWidth_eq]

/-- A signed four-byte read is the two's complement value of the word at the offset (20_memory rule R35). -/
theorem memReadS_four {buf : Buffer} {off : Nat} (h : off + 4 ≤ buf.length) :
    Buffer.memReadS .little buf off 4 = (word32At buf off).toInt := by
  rw [Buffer.memReadS, memRead_four buf off h, BitVec.toInt_eq_toNat_cond]
  exact if_congr (by omega) rfl rfl

/-- An interval is converted from the two words of its pair (rules R52, R97). -/
theorem intervalAt_eq_fromWire {buf : Buffer} {off : Nat} (h : off + 8 ≤ buf.length) :
    intervalAt Config.hardware buf off =
      Interval.fromWire Binary64.arith (word32At buf off) (word32At buf (off + 4)) := by
  rw [intervalAt, hardware_arith, hardware_byteOrder, memReadS_four (by omega), memReadS_four (by omega),
    BitVec.ofInt_toInt, BitVec.ofInt_toInt]

/-- The frame at index `i` is read from the 16 bytes at `16 * i`, when the buffer holds all the chunks (rules R31, R97). -/
theorem chunkFrames_eq_map_range (n : Nat) (buf : Buffer) (h : 16 * n ≤ buf.length) :
    chunkFrames .little n buf = (List.range n).map fun i => readFrame ((buf.drop (16 * i)).take 16) := by
  induction n generalizing buf with
  | zero => rfl
  | succ n ih =>
    have hfirst : frameFields .little (buf.take 16) = readFrame (buf.take 16) :=
      frameFields_eq_readFrame (by rw [List.length_take]; omega)
    have hrest := ih (buf.drop 16) (by rw [List.length_drop]; omega)
    rw [chunkFrames, Config.frameSize, hfirst, hrest, List.range_succ_eq_map, List.map_cons, List.map_map]
    simp [List.drop_drop, Nat.mul_succ, Nat.add_comm, Function.comp_def]

/-- With the header present, the chunk test passes exactly the declared length (rules R97, R98). -/
theorem chunksMatch_iff {buf : Buffer} (h : 40 ≤ buf.length) :
    chunksMatch .little buf = true ↔ buf.length = 40 + 16 * (word32At buf 32).toNat := by
  refine ⟨fun hmatch => ?_, chunksMatch_of_length_eq⟩
  simp only [chunksMatch, memRead_four buf 32 (by omega), Config.hdrSize, Config.frameSize, Bool.and_eq_true,
    beq_iff_eq] at hmatch
  obtain ⟨hwhole, hcount⟩ := hmatch
  omega

end Sys2Proof.Laws.Wire

namespace Sys2Proof.Machine

open Sys2Proof.Safety Sys2Proof.Laws.Wire

/-- The message of a buffer of the declared length, field by field (rule R97). -/
theorem bcmFields_eq {buf : Buffer} (h : buf.length = 40 + 16 * (word32At buf 32).toNat) :
    bcmFields Config.hardware buf =
      { opcode := word32At buf 0
        flags := word32At buf 4
        repeatCount := word32At buf 8
        interval1 := Interval.fromWire Binary64.arith (word32At buf 12) (word32At buf 16)
        interval2 := Interval.fromWire Binary64.arith (word32At buf 20) (word32At buf 24)
        identifier := word32At buf 28
        frames := (List.range (word32At buf 32).toNat).map fun i => readFrame ((buf.drop (40 + 16 * i)).take 16) } := by
  have hchunks := chunkFrames_eq_map_range (word32At buf 32).toNat (buf.drop 40) (by rw [List.length_drop]; omega)
  simp only [List.drop_drop] at hchunks
  rw [bcmFields, hardware_byteOrder, memRead_four buf 32 (by omega), Config.hdrSize, hchunks]
  simp only [BcmMessage.mk.injEq, and_true]
  exact ⟨ofNat_memRead_four (by omega), ofNat_memRead_four (by omega), ofNat_memRead_four (by omega),
    intervalAt_eq_fromWire (by omega), intervalAt_eq_fromWire (by omega), ofNat_memRead_four (by omega)⟩

/-- Settles O25: the test for the header comes first, the chunk test passes the declared length alone, and what passes is read at
its offsets. -/
theorem bcmDecReadsHeaderAndFrames : Obligations.BcmDecReadsHeaderAndFrames := by
  intro s b n
  refine ⟨fun hshort => ?_, fun hheader hlen => ?_, fun hlen => ?_⟩
  · refine exec_eq_deliver_iff.2 ⟨rfl, ?_⟩
    rw [resultOf, if_pos hshort]
  · refine exec_eq_deliver_iff.2 ⟨rfl, ?_⟩
    rw [resultOf, if_neg (Nat.not_lt.2 hheader), if_neg (mt (chunksMatch_iff hheader).1 hlen)]
  · rw [exec_bcmDec_ok s hlen, bcmFields_eq hlen]

end Sys2Proof.Machine
end

section
/-! The three error kinds: what raises each (60_exceptions rules R104 to R106, R109), their codes (rule R107), and that an error
leaves nothing behind for the next request (rule R111). -/

namespace Sys2Proof.Machine

open Sys2Proof.Safety Sys2Proof.Laws.Wire

/-- Only the eight operations have results. -/
theorem fmt_eq_cmd_of_resultOf_eq_some {i : Instr} {o : Operands} {r : Result} (h : resultOf i o = some r) :
    (encode i).fmt = .cmd := by
  cases i with
  | frameEnc | frameDec | ivalToWire | ivalFromWire | bcmEnc | bcmDec | frameEq | bcmEq => rfl
  | txSetup | txDelete | txRead | rxSetup | rxDelete | rxRead | rxStatus | rxTimeout | rxChanged
  | setTimer | startTimer | rxFilterId | errFlag | rtrFlag | effFlag => cases h

/-- `exec_eq_deliver_iff` without its first half, which the second implies. -/
theorem exec_eq_deliver_iff_resultOf {i : Instr} {s : State} {r : Result} :
    exec i s = .next (s.deliver r) ↔ resultOf i s.operands = some r :=
  exec_eq_deliver_iff.trans (and_iff_right_of_imp fmt_eq_cmd_of_resultOf_eq_some)

/-- FRAME.ENC has one error, for its payload (rule R69). -/
theorem resultOf_frameEnc_eq_error_iff {o : Operands} {e : ErrorKind} :
    resultOf .frameEnc o = some (.error e) ↔ e = .payloadTooLarge ∧ 8 < o.frame.payloadLen.toNat := by
  have hlong : o.frame.tooLong = true ↔ 8 < o.frame.payloadLen.toNat := decide_eq_true_iff
  by_cases h : 8 < o.frame.payloadLen.toNat <;> simp [resultOf, hlong, h, @eq_comm _ e]

/-- FRAME.DEC has one error, for the length of its buffer (rule R72). -/
theorem resultOf_frameDec_eq_error_iff {o : Operands} {e : ErrorKind} :
    resultOf .frameDec o = some (.error e) ↔ e = .lengthError ∧ o.buf.length ≠ 16 := by
  by_cases h : o.buf.length = 16 <;> simp [resultOf, h, @eq_comm _ e]

/-- BCM.ENC has one error, for a payload among its frames; without it the operation succeeds or is refused (rules R95, R96). -/
theorem resultOf_bcmEnc_eq_error_iff {o : Operands} {e : ErrorKind} :
    resultOf .bcmEnc o = some (.error e) ↔ e = .payloadTooLarge ∧ ∃ f ∈ o.msg.frames, 8 < f.payloadLen.toNat := by
  have hlong : o.msg.frames.any CanFrame.tooLong = true ↔ ∃ f ∈ o.msg.frames, 8 < f.payloadLen.toNat := by
    simp [CanFrame.tooLong, Config.payloadMax]
  rw [resultOf, ← hlong]
  by_cases h : o.msg.frames.any CanFrame.tooLong = true
  · rw [if_pos h]; simp only [h, and_true, Option.some.injEq, Result.error.injEq, eq_comm]
  · rw [if_neg h]; split <;> simp [h]

/-- With the header present, the two clauses of rule R106 together say that the length is not the declared one. -/
theorem chunks_mismatch_iff {len n : Nat} (h : 40 ≤ len) :
    ((len - 40) % 16 ≠ 0 ∨ (len - 40) / 16 ≠ n) ↔ len ≠ 40 + 16 * n := by
  omega

/-- BCM.DEC has two errors: a buffer without a whole header is a length error, whatever would follow it, and with the header present
only the chunk test can fail (rules R98, R109). -/
theorem resultOf_bcmDec_eq_error_iff {o : Operands} {e : ErrorKind} :
    resultOf .bcmDec o = some (.error e) ↔
      e = .lengthError ∧ o.buf.length < 40 ∨
      e = .frameCountMismatch ∧ 40 ≤ o.buf.length ∧
        ((o.buf.length - 40) % 16 ≠ 0 ∨ (o.buf.length - 40) / 16 ≠ (word32At o.buf 32).toNat) := by
  rw [resultOf]
  by_cases hshort : o.buf.length < 40
  · simp [hshort, Nat.not_le.2 hshort, @eq_comm _ e]
  · have hheader : 40 ≤ o.buf.length := Nat.le_of_not_lt hshort
    rw [if_neg hshort, chunks_mismatch_iff hheader, Ne, ← chunksMatch_iff hheader]
    by_cases hmatch : chunksMatch .little o.buf = true <;> simp [hshort, hheader, hmatch, @eq_comm _ e]

/-- What raises an error kind, by the row performed and the operand record (rules R104 to R106). -/
def RaisedBy (i : Instr) (o : Operands) : ErrorKind → Prop
  | .lengthError => (i = .frameDec ∧ o.buf.length ≠ 16) ∨ (i = .bcmDec ∧ o.buf.length < 40)
  | .payloadTooLarge =>
      (i = .frameEnc ∧ 8 < o.frame.payloadLen.toNat) ∨ (i = .bcmEnc ∧ ∃ f ∈ o.msg.frames, 8 < f.payloadLen.toNat)
  | .frameCountMismatch =>
      i = .bcmDec ∧ 40 ≤ o.buf.length ∧
        ((o.buf.length - 40) % 16 ≠ 0 ∨ (o.buf.length - 40) / 16 ≠ (word32At o.buf 32).toNat)

/-- Over every row, an error kind is the result exactly for its cause: four operations have errors, and no other row has any. -/
theorem resultOf_eq_error_iff {i : Instr} {o : Operands} {e : ErrorKind} :
    resultOf i o = some (.error e) ↔ RaisedBy i o e := by
  cases i with
  | frameEnc => rw [resultOf_frameEnc_eq_error_iff]; cases e <;> simp [RaisedBy]
  | frameDec => rw [resultOf_frameDec_eq_error_iff]; cases e <;> simp [RaisedBy]
  | bcmEnc => rw [resultOf_bcmEnc_eq_error_iff]; cases e <;> simp [RaisedBy]
  | bcmDec => rw [resultOf_bcmDec_eq_error_iff]; cases e <;> simp [RaisedBy]
  | ivalToWire | ivalFromWire | frameEq | bcmEq
  | txSetup | txDelete | txRead | rxSetup | rxDelete | rxRead | rxStatus | rxTimeout | rxChanged
  | setTimer | startTimer | rxFilterId | errFlag | rtrFlag | effFlag =>
    exact iff_of_false nofun (by cases e <;> simp [RaisedBy])

/-- An error is delivered exactly for its cause, over every row and every state. -/
theorem exec_eq_deliver_error_iff {i : Instr} {s : State} {e : ErrorKind} :
    exec i s = .next (s.deliver (.error e)) ↔ RaisedBy i s.operands e := by
  rw [exec_eq_deliver_iff_resultOf, resultOf_eq_error_iff]

/-- Settles O29, the case of LengthError. -/
theorem lengthErrorExactlyWhen : Obligations.LengthErrorExactlyWhen := fun _ _ => exec_eq_deliver_error_iff

/-- Settles O30, the case of PayloadTooLarge. -/
theorem payloadTooLargeExactlyWhen : Obligations.PayloadTooLargeExactlyWhen := fun _ _ => exec_eq_deliver_error_iff

/-- Settles O31, the case of FrameCountMismatch. -/
theorem frameCountMismatchExactlyWhen : Obligations.FrameCountMismatchExactlyWhen := fun _ _ => exec_eq_deliver_error_iff

/-- Settles O32: each code is the table's entry. -/
theorem statusCodesOfResults : Obligations.StatusCodesOfResults := ⟨fun _ => rfl, rfl, rfl, rfl⟩

/-- A data row delivers nothing. -/
theorem exec_data_results {i : Instr} (h : (encode i).fmt ≠ .cmd) {s t : State} (ht : exec i s = .next t) :
    t.results = s.results := by
  obtain ⟨g, hg⟩ | ⟨g, hg⟩ := exec_data i h s
  · rw [← Host.Outcome.next.inj (hg.symm.trans ht), State.mapMsg_results]
  · rw [← Host.Outcome.next.inj (hg.symm.trans ht), State.mapFrame_results]

/-- An instruction appends a result exactly when it is an operation delivering that result, and then nothing else changes. -/
theorem exec_appends_iff {i : Instr} {s t : State} {r : Result} :
    (exec i s = .next t ∧ t.results = s.results ++ [r]) ↔ resultOf i s.operands = some r ∧ t = s.deliver r := by
  constructor
  · rintro ⟨hx, happend⟩
    by_cases hop : (encode i).fmt = .cmd
    · obtain ⟨r', hr', rfl⟩ := exec_operation_next hop hx
      obtain rfl : r' = r := by simpa using happend
      exact ⟨hr', rfl⟩
    · simp [exec_data_results hop hx] at happend
  · rintro ⟨hr, rfl⟩
    exact ⟨exec_eq_deliver_iff_resultOf.2 hr, State.deliver_results s r⟩

/-- A step with a request appends a result exactly when the request's word decodes to an operation delivering that result on the
request's operand record, and then nothing else changes but that the request is taken (rules R15, R40). -/
theorem step_appends_iff {s t : State} {inp : Input} {rest : List Input} {r : Result} (h : s.inputs = inp :: rest) :
    (step s = .next t ∧ t.results = s.results ++ [r]) ↔
      ∃ i, decode inp.word = .ok i ∧ resultOf i (inp.operands.getD s.operands) = some r ∧
        t = (s.accept inp rest).deliver r := by
  cases hd : decode inp.word with
  | error reason => simp [step_unnamed h hd]
  | ok i =>
    rw [step_request h hd]
    simpa using exec_appends_iff (s := s.accept inp rest)

/-- Settles O34: the result is `resultOf` of the operand record that the next request brings, and the failed request has left only
its own result among those delivered. -/
theorem errorsLeaveNoTrace : Obligations.ErrorsLeaveNoTrace := by
  constructor
  · intro i j s o e r _ hj
    have hr : resultOf j o = some r := exec_eq_deliver_iff_resultOf.1 hj
    exact exec_eq_deliver_iff_resultOf.2 hr
  · intro s t u failed next rest o e r hinputs ho ht hterr hu hur
    obtain ⟨i, -, -, rfl⟩ := (step_appends_iff hinputs).1 ⟨ht, hterr⟩
    obtain ⟨j, hd, hr, rfl⟩ := (step_appends_iff (s := { s with inputs := next :: rest }) rfl).1 ⟨hu, hur⟩
    rw [ho, Option.getD_some] at hr
    refine ((step_appends_iff (r := r) rfl).2 ⟨j, hd, ?_, ?_⟩).1
    · rw [ho, Option.getD_some, hr]
    · simp [State.deliver, State.accept, ho]

end Sys2Proof.Machine
end

section
/-! Rounding to nearest, ties to even (41_interval rule R78): the packed significand is the nearest integer to the shifted fraction,
and no `Float` lies nearer than the integers of that shift. -/

namespace Sys2Proof.Binary64

open Sys2Proof.Safety

/-- A tie goes to the even integer. -/
theorem nearestEven_even_of_tie {num den : Nat} (hd : 0 < den)
    (h : 2 * num = 2 * (nearestEven num den * den) + den ∨ 2 * (nearestEven num den * den) = 2 * num + den) :
    nearestEven num den % 2 = 0 := by
  have hdiv := Nat.div_add_mod num den
  have hmod := Nat.mod_lt num hd
  rw [Nat.mul_comm] at hdiv
  revert h
  simp only [nearestEven]
  split
  · rw [Nat.add_mul, Nat.one_mul]
    omega
  · omega

/-- `nearestEven_close` as a distance. -/
theorem two_mul_abs_nearestEven_sub_le (num : Nat) {den : Nat} (hd : 0 < den) :
    2 * |(nearestEven num den * den - num : Int)| ≤ den := by
  have hclose := nearestEven_close num den hd
  have habs := abs_cases (nearestEven num den * den - num : Int)
  zify at hclose
  omega

/-- No integer is nearer to `num / den`, and one equally near only where the nearest is even. -/
theorem nearestEven_nearest (num : Nat) {den : Nat} (hd : 0 < den) (n : Int) :
    |(nearestEven num den * den - num : Int)| ≤ |(n * den - num : Int)| ∧
      (|(nearestEven num den * den - num : Int)| = |(n * den - num : Int)| →
        n = nearestEven num den ∨ nearestEven num den % 2 = 0) := by
  have hhalf := two_mul_abs_nearestEven_sub_le num hd
  have htie := nearestEven_even_of_tie (num := num) hd
  zify at htie
  have habs := abs_cases (nearestEven num den * den - num : Int)
  rcases eq_or_ne n (nearestEven num den) with rfl | hne
  · exact ⟨le_rfl, fun _ => .inl rfl⟩
  · have hstep : (den : Int) ≤ |(n - nearestEven num den) * den| := by
      rw [abs_mul, Nat.abs_cast]
      exact le_mul_of_one_le_left (Int.natCast_nonneg den) (Int.one_le_abs (sub_ne_zero.2 hne))
    have htri := abs_sub (n * den - num : Int) (nearestEven num den * den - num)
    rw [sub_sub_sub_cancel_right, ← sub_mul] at htri
    exact ⟨by omega, fun heq => .inr (by omega)⟩

/-- The significand of a finite `Float`: a subnormal's fraction, or the fraction with the hidden bit. -/
def significand (x : Binary64) : Nat := if expo x = 0 then frac x else 2 ^ 52 + frac x

theorem frac_lt (x : Binary64) : frac x < 2 ^ 52 := by
  rw [frac_eq]
  exact Nat.mod_lt _ (by decide)

theorem significand_lt (x : Binary64) : significand x < 2 ^ 53 := by
  have := frac_lt x
  unfold significand
  split <;> omega

theorem le_significand {x : Binary64} (h : expo x ≠ 0) : 2 ^ 52 ≤ significand x := by
  rw [significand, if_neg h]
  exact Nat.le_add_right _ _

theorem mag_eq_significand_mul (x : Binary64) : mag x = significand x * 2 ^ (expo x - 1) := by
  unfold mag significand
  split
  · next h => rw [h, Nat.zero_sub, pow_zero, Nat.mul_one]
  · rw [Nat.shiftLeft_eq]

/-- A magnitude of 53 bits at a shift has an exponent above the shift. -/
theorem le_expo_of_two_pow_le_mag {x : Binary64} {k : Nat} (h : 2 ^ (52 + k) ≤ mag x) : k ≤ expo x - 1 := by
  rw [mag_eq_significand_mul] at h
  have hlt : 2 ^ (52 + k) < 2 ^ (53 + (expo x - 1)) := by
    rw [pow_add _ 53]
    exact h.trans_lt (Nat.mul_lt_mul_of_pos_right (significand_lt x) (Nat.two_pow_pos _))
  have := (Nat.pow_lt_pow_iff_right (by decide : 1 < 2)).1 hlt
  omega

/-- A magnitude of 53 bits at a shift is a multiple of the shift's unit. -/
theorem two_pow_dvd_mag {x : Binary64} {k : Nat} (h : 2 ^ (52 + k) ≤ mag x) : 2 ^ k ∣ mag x := by
  rw [mag_eq_significand_mul]
  exact Dvd.dvd.mul_left (pow_dvd_pow 2 (le_expo_of_two_pow_le_mag h)) _

/-- The sign of a `Float` as a factor. -/
def sgn (neg : Bool) : Int := if neg then -1 else 1

theorem sgn_mul_self (neg : Bool) : sgn neg * sgn neg = 1 := by cases neg <;> rfl

theorem abs_sgn (neg : Bool) : |sgn neg| = 1 := by cases neg <;> rfl

theorem units_eq_sgn_mul (x : Binary64) : units x = sgn (sign x) * mag x := by
  cases h : sign x <;> simp [units, sgn, h]

/-- The magnitude that `round` packs is as near to the fraction as any signed `Float`, and as one equally near only where it is even or
the two are equal. Below the 53-bit magnitudes at the shift lies no candidate, because the fraction itself is none of them. -/
theorem significand_nearest (num : Nat) {den : Nat} (hd : 0 < den) (neg : Bool) (y : Binary64) :
    let k := shiftOf num den
    let m := nearestEven num (den <<< k)
    |((m * 2 ^ k : Nat) * den - num : Int)| ≤ |(sgn neg * units y * den - num : Int)| ∧
      (|((m * 2 ^ k : Nat) * den - num : Int)| = |(sgn neg * units y * den - num : Int)| →
        sgn neg * units y = (m * 2 ^ k : Nat) ∨ m % 2 = 0) := by
  intro k m
  have hden : ∀ n : Int, n * 2 ^ k * den = n * (den <<< k : Nat) := fun n => by
    rw [Nat.shiftLeft_eq, Nat.cast_mul, Nat.cast_pow, Nat.cast_ofNat]
    ring
  have hnear := nearestEven_nearest num (den := den <<< k) (by rw [Nat.shiftLeft_eq]; positivity)
  rw [Nat.cast_mul, Nat.cast_pow, Nat.cast_ofNat, hden]
  have habs : |sgn neg * units y| = mag y := by
    rw [abs_mul, abs_sgn, one_mul, Int.abs_eq_natAbs, natAbs_units]
  by_cases hdvd : 2 ^ k ∣ mag y
  · obtain ⟨n, hn⟩ : (2 ^ k : Int) ∣ sgn neg * units y := by
      rw [← dvd_abs, habs]
      exact_mod_cast hdvd
    rw [hn, mul_comm _ n, hden]
    obtain ⟨hle, heq⟩ := hnear n
    exact ⟨hle, fun h => (heq h).imp (fun h => by rw [h]) id⟩
  · have hk : shiftOf num den ≠ 0 := fun h => hdvd (by simp [k, h])
    have hlt : mag y < 2 ^ (52 + k) := lt_of_not_ge (mt two_pow_dvd_mag hdvd)
    have hnum : 2 ^ (52 + k) * den ≤ num := by
      have := (Nat.le_div_iff_mul_le hd).1 ((Nat.le_div_iff_mul_le (Nat.two_pow_pos _)).1 (le_div_shift hk))
      rwa [← pow_add] at this
    have hcloser : |(2 ^ 52 * (den <<< k : Nat) - num : Int)| < |(sgn neg * units y * den - num : Int)| := by
      rw [← hden, ← pow_add]
      have hy : sgn neg * units y * den < 2 ^ (52 + k) * den := by
        refine mul_lt_mul_of_pos_right ((le_abs_self _).trans_lt ?_) (Int.natCast_pos.2 hd)
        rw [habs]
        exact_mod_cast hlt
      zify at hnum
      rw [abs_of_nonpos (by omega), abs_of_nonpos (by omega)]
      omega
    have hlt := (hnear (2 ^ 52)).1.trans_lt hcloser
    exact ⟨hlt.le, fun h => absurd h hlt.ne⟩

section

variable {num den e : Nat} (hd : 0 < den) (h : num < (2 ^ 54 - 1) * 2 ^ e * den)

include hd h

/-- Below half a unit short of `2 ^ (54 + e)` no more than `e + 1` bits are lost, and where that many are, nothing is carried. -/
theorem shiftOf_le_or_no_carry :
    shiftOf num den ≤ e ∨ shiftOf num den = e + 1 ∧ nearestEven num (den <<< shiftOf num den) < 2 ^ 53 := by
  have hbound : num < 2 ^ (53 + e + 1) * den := by
    refine h.trans_le (Nat.mul_le_mul_right _ ?_)
    rw [Nat.add_right_comm, pow_add]
    exact Nat.mul_le_mul_right _ (by decide)
  have hk := shiftOf_le hbound
  rcases Nat.lt_or_ge e (shiftOf num den) with hlt | hle
  · obtain hlast : shiftOf num den = e + 1 := by omega
    refine .inr ⟨hlast, ?_⟩
    have hD : 0 < den <<< (e + 1) := by
      rw [Nat.shiftLeft_eq]
      positivity
    have hdouble : 2 * num < (2 ^ 54 - 1) * (den <<< (e + 1)) :=
      calc 2 * num < 2 * ((2 ^ 54 - 1) * 2 ^ e * den) := Nat.mul_lt_mul_of_pos_left h (by decide)
        _ = (2 ^ 54 - 1) * (den <<< (e + 1)) := by rw [Nat.shiftLeft_eq, pow_succ]; ring
    have hclose := (nearestEven_close num (den <<< (e + 1)) hD).2
    rw [hlast]
    generalize den <<< (e + 1) = D at *
    by_contra hcarry
    have := Nat.mul_le_mul_right D (Nat.le_of_not_lt hcarry)
    omega
  · exact .inl hle

variable (he : e ≤ 2044)

include he

/-- Below the limit the packed significand stays below infinity's pattern. -/
theorem packed_lt_infinity : shiftOf num den * 2 ^ 52 + nearestEven num (den <<< shiftOf num den) < 2047 * 2 ^ 52 := by
  have hfits := (significand_fits num den).1
  have hlast := shiftOf_le_or_no_carry hd h
  omega

/-- Below the limit the result is finite and counts its significand at its shift. -/
theorem round_below_limit (neg : Bool) :
    isFinite (round neg num den) = true ∧
      mag (round neg num den) = nearestEven num (den <<< shiftOf num den) * 2 ^ shiftOf num den := by
  obtain ⟨hle, hge⟩ := significand_fits num den
  have hlt := packed_lt_infinity hd h he
  rw [round, roundMag, min_eq_left hlt.le]
  exact ⟨isFinite_pack _ _ hlt, mag_pack _ _ _ hle hge hlt⟩

theorem sgn_mul_units_round (neg : Bool) :
    sgn neg * units (round neg num den) =
      (nearestEven num (den <<< shiftOf num den) * 2 ^ shiftOf num den : Nat) := by
  rw [units_eq_sgn_mul, sign_round, (round_below_limit hd h he neg).2, ← mul_assoc, sgn_mul_self, one_mul]

/-- The bits lost are no more than the exponent of the result counts. -/
theorem shiftOf_le_expo_round (neg : Bool) : shiftOf num den ≤ expo (round neg num den) - 1 := by
  rcases (significand_fits num den).2 with h0 | hge
  · omega
  · refine le_expo_of_two_pow_le_mag ?_
    rw [(round_below_limit hd h he neg).2, pow_add]
    exact Nat.mul_le_mul_right _ hge

/-- Below the limit the last fraction bit is the parity of the significand. -/
theorem lastBit_round (neg : Bool) (heven : nearestEven num (den <<< shiftOf num den) % 2 = 0) :
    (round neg num den).getLsbD 0 = false := by
  have hlt := packed_lt_infinity hd h he
  rw [round, roundMag, min_eq_left hlt.le, BitVec.getLsbD, toNat_pack _ _ (by omega), Nat.testBit_zero,
    decide_eq_false_iff_not]
  cases neg <;> simp <;> omega

end

/-- A value counts its units, of which 1.0 has `one`. -/
theorem value_eq (x : Binary64) : value x = units x / one := by
  rw [Interval.value_eq_units_div_one, Int.cast_natCast]

theorem one_cast_pos : (0 : ℚ) < one := Nat.cast_pos.2 one_pos

theorem ulp_eq (x : Binary64) : ulp x = 2 ^ (expo x - 1) / one := by
  unfold ulp one
  generalize 1074 = k
  rw [Nat.one_shiftLeft, Nat.cast_pow, Nat.cast_ofNat]

theorem roundingLimit_units : ∃ e ≤ 2044, roundingLimit * one = ((2 ^ 54 - 1) * 2 ^ e : Nat) := by
  have hsplit : ∀ a b : Nat, (2 ^ (54 + a) - 2 ^ a) * ((1 <<< b : Nat) : ℚ) = ((2 ^ 54 - 1) * 2 ^ (a + b) : Nat) :=
    fun a b => by
      rw [Nat.one_shiftLeft, pow_add, pow_add]
      push_cast
      ring
  exact ⟨970 + 1074, le_rfl, hsplit 970 1074⟩

section

variable {q : ℚ} {neg : Bool} {num den : Nat} (hd : 0 < den) (hq : q = sgn neg * (num / den) / one)

include hd hq

/-- The distance to the exact value, counted in integers over its denominator. -/
theorem abs_value_sub (y : Binary64) :
    |value y - q| = (|(sgn neg * units y * den - num : Int)| : Int) / (den * one) := by
  have hdQ : (0 : ℚ) < den := Nat.cast_pos.2 hd
  have hsgn : (sgn neg : ℚ) * sgn neg = 1 := by exact_mod_cast sgn_mul_self neg
  have hdist : (value y - q) = sgn neg * (sgn neg * units y * den - num : Int) / (den * one) := by
    rw [value_eq, hq]
    have := one_cast_pos.ne'
    push_cast
    field_simp
    linear_combination (-(units y : ℚ) * den) * hsgn
  rw [hdist, abs_div, abs_mul, abs_of_pos (mul_pos hdQ one_cast_pos)]
  cases neg <;> simp [sgn]

theorem lt_of_abs_lt_roundingLimit {e : Nat} (hlim : roundingLimit * one = ((2 ^ 54 - 1) * 2 ^ e : Nat))
    (h : |q| < roundingLimit) : num < (2 ^ 54 - 1) * 2 ^ e * den := by
  have hdQ : (0 : ℚ) < den := Nat.cast_pos.2 hd
  have habs : |q| = num / den / one := by
    rw [hq, abs_div, abs_mul, abs_of_pos one_cast_pos, abs_of_nonneg (by positivity : (0 : ℚ) ≤ num / den)]
    cases neg <;> simp [sgn]
  rw [habs, div_lt_iff₀ one_cast_pos, hlim, div_lt_iff₀ hdQ] at h
  exact_mod_cast h

/-- `round` gives the nearest `Float`, ties to even (rule R78). -/
theorem roundsTo_round (h : |q| < roundingLimit) : RoundsTo q (round neg num den) := by
  obtain ⟨e, he, hlim⟩ := roundingLimit_units
  have hnum := lt_of_abs_lt_roundingLimit hd hq hlim h
  have hunits := sgn_mul_units_round hd hnum he neg
  have hscale : (0 : ℚ) < den * one := mul_pos (Nat.cast_pos.2 hd) one_cast_pos
  refine ⟨(round_below_limit hd hnum he neg).1, fun y _ => ?_⟩
  obtain ⟨hle, htie⟩ := significand_nearest num hd neg y
  rw [abs_value_sub hd hq, abs_value_sub hd hq, hunits, div_le_div_iff_of_pos_right hscale, div_left_inj' hscale.ne',
    Int.cast_le, Int.cast_inj]
  refine ⟨hle, fun heq => (htie heq).imp (fun hsame => ?_) (lastBit_round hd hnum he neg)⟩
  rw [← hunits] at hsame
  rw [value_eq, value_eq, mul_left_cancel₀ (by cases neg <;> decide) hsame]

/-- `round` is at most half a unit in the last place off: its shift is not above the exponent of its result. -/
theorem abs_value_round_sub_le (h : |q| < roundingLimit) :
    |value (round neg num den) - q| ≤ ulp (round neg num den) / 2 := by
  obtain ⟨e, he, hlim⟩ := roundingLimit_units
  have hnum := lt_of_abs_lt_roundingLimit hd hq hlim h
  have hscale : (0 : ℚ) < den * one := mul_pos (Nat.cast_pos.2 hd) one_cast_pos
  have hexpo := shiftOf_le_expo_round hd hnum he neg
  have hhalf : 2 * |((nearestEven num (den <<< shiftOf num den) * 2 ^ shiftOf num den : Nat) * den - num : Int)| ≤
      (2 ^ (expo (round neg num den) - 1) * den : Nat) :=
    calc 2 * |((nearestEven num (den <<< shiftOf num den) * 2 ^ shiftOf num den : Nat) * den - num : Int)|
        = 2 * |(nearestEven num (den <<< shiftOf num den) * (den <<< shiftOf num den : Nat) - num : Int)| := by
          rw [Nat.shiftLeft_eq, ← Nat.cast_mul, ← Nat.cast_mul, Nat.mul_right_comm, Nat.mul_assoc]
      _ ≤ (den <<< shiftOf num den : Nat) :=
          two_mul_abs_nearestEven_sub_le num (by rw [Nat.shiftLeft_eq]; positivity)
      _ ≤ (2 ^ (expo (round neg num den) - 1) * den : Nat) := by
          rw [Nat.shiftLeft_eq, Nat.mul_comm, Int.ofNat_le]
          exact Nat.mul_le_mul_right _ (Nat.pow_le_pow_right (by decide) hexpo)
  rw [abs_value_sub hd hq, sgn_mul_units_round hd hnum he neg, ulp_eq, div_div,
    div_le_div_iff₀ hscale (mul_pos one_cast_pos two_pos)]
  have hhalfQ := mul_le_mul_of_nonneg_right ((Int.cast_le (R := ℚ)).2 hhalf) one_cast_pos.le
  push_cast at hhalfQ ⊢
  linarith

end

end Sys2Proof.Binary64
end

section
/-! The arithmetic of this hardware rounds the exact result once (41_interval rule R78). -/

namespace Sys2Proof.Binary64

open Sys2Proof.Safety

/-- `p` is `q` rounded once to nearest even, and then at most half a unit in the last place off. -/
def RoundsOnce (q : ℚ) (p : Binary64) : Prop := RoundsTo q p ∧ |value p - q| ≤ ulp p / 2

theorem roundsOnce_round {q : ℚ} {neg : Bool} {num den : Nat} (hd : 0 < den) (hq : q = sgn neg * (num / den) / one)
    (h : |q| < roundingLimit) : RoundsOnce q (round neg num den) :=
  ⟨roundsTo_round hd hq h, abs_value_round_sub_le hd hq h⟩

/-- A value as a signed magnitude. -/
theorem value_eq_sgn_mul (x : Binary64) : value x = sgn (sign x) * mag x / one := by
  rw [value_eq, units_eq_sgn_mul, Int.cast_mul, Int.cast_natCast]

theorem sgn_bne (a b : Bool) : sgn (a != b) = sgn a * sgn b := by cases a <;> cases b <;> rfl

theorem sgn_decide_mul_natAbs (t : Int) : sgn (decide (t < 0)) * t.natAbs = t := by
  by_cases h : t < 0
  · rw [decide_eq_true h, sgn, if_pos rfl]
    omega
  · rw [decide_eq_false h, sgn, if_neg Bool.false_ne_true]
    omega

/-- The sign that `fadd` gives, zero sums included, is that of the sum. -/
theorem sgn_sum_mul_natAbs (zeroSign : Bool) (t : Int) :
    sgn (if t = 0 then zeroSign else decide (t < 0)) * t.natAbs = t := by
  split
  · next h0 => rw [h0, Int.natAbs_zero, Nat.cast_zero, mul_zero]
  · exact sgn_decide_mul_natAbs t

@[simp] theorem value_neg (x : Binary64) : value (neg x) = -value x := by
  rw [value_eq, value_eq, units_neg, Int.cast_neg, neg_div]

theorem abs_value (x : Binary64) : |value x| = mag x / one := by
  rw [value_eq, abs_div, abs_of_pos one_cast_pos, ← Int.cast_abs, Int.abs_eq_natAbs, natAbs_units, Int.cast_natCast]

theorem value_eq_zero_iff (x : Binary64) : value x = 0 ↔ mag x = 0 := by
  rw [value_eq, div_eq_zero_iff, or_iff_left one_cast_pos.ne', Int.cast_eq_zero, ← Int.natAbs_eq_zero, natAbs_units]

theorem value_usecPerSec : value Config.usecPerSec = 1000000 := by
  have hone := one_cast_pos.ne'
  rw [value_eq_sgn_mul, mag_usecPerSec, show sign Config.usecPerSec = false by decide]
  simp [sgn, hone]

theorem two_pow_53_lt_roundingLimit : (2 ^ 53 : ℚ) < roundingLimit := by
  have hlim : ∀ k : Nat, (2 ^ 53 : ℚ) < 2 ^ (54 + k) - 2 ^ k := fun k => by
    have := one_le_pow₀ (n := k) (one_le_two : (1 : ℚ) ≤ 2)
    rw [pow_add]
    linarith
  exact hlim 970

section

variable {a b : Binary64} (ha : isFinite a = true) (hb : isFinite b = true)

include ha hb

theorem fadd_roundsOnce (h : |value a + value b| < roundingLimit) : RoundsOnce (value a + value b) (fadd a b) := by
  rw [fadd, if_pos (by rw [ha, hb]; rfl)]
  refine roundsOnce_round Nat.one_pos ?_ h
  rw [Nat.cast_one, div_one, ← Int.cast_natCast (R := ℚ), ← Int.cast_mul, sgn_sum_mul_natAbs, value_eq, value_eq,
    Int.cast_add, add_div]

/-- A sum of which every bit that `shiftOf` counts is zero is exact. -/
theorem fadd_exact (hk : shiftOf (units a + units b).natAbs 1 ≤ 2044)
    (hdvd : 2 ^ shiftOf (units a + units b).natAbs 1 ∣ (units a + units b).natAbs) :
    isFinite (fadd a b) = true ∧ units (fadd a b) = units a + units b := by
  rw [fadd, if_pos (by rw [ha, hb]; rfl)]
  obtain ⟨hfin, hmag⟩ := round_of_dvd (if units a + units b = 0 then sign a && sign b else decide (units a + units b < 0))
    hk hdvd
  exact ⟨hfin, by rw [units_eq_sgn_mul, sign_round, hmag, sgn_sum_mul_natAbs]⟩

theorem fsub_roundsOnce (h : |value a - value b| < roundingLimit) : RoundsOnce (value a - value b) (fsub a b) := by
  rw [sub_eq_add_neg, ← value_neg] at h ⊢
  exact fadd_roundsOnce ha ((isFinite_neg b).trans hb) h

theorem fmul_roundsOnce (h : |value a * value b| < roundingLimit) : RoundsOnce (value a * value b) (fmul a b) := by
  rw [fmul, if_pos (by rw [ha, hb]; rfl)]
  refine roundsOnce_round one_pos ?_ h
  rw [value_eq_sgn_mul, value_eq_sgn_mul, sgn_bne]
  push_cast
  ring

theorem fdiv_roundsOnce (h0 : value b ≠ 0) (h : |value a / value b| < roundingLimit) :
    RoundsOnce (value a / value b) (fdiv a b) := by
  have hmag : mag b ≠ 0 := mt (value_eq_zero_iff b).2 h0
  have hone := one_cast_pos.ne'
  have hmagQ : (mag b : ℚ) ≠ 0 := Nat.cast_ne_zero.2 hmag
  rw [fdiv, if_pos (by simp [ha, hb, hmag])]
  refine roundsOnce_round (Nat.pos_of_ne_zero hmag) ?_ h
  rw [value_eq_sgn_mul, value_eq_sgn_mul, sgn_bne]
  have hinv : (sgn (sign b) : ℚ)⁻¹ = sgn (sign b) := by cases sign b <;> norm_num [sgn]
  push_cast
  rw [div_div_div_cancel_right₀ hone, mul_div_mul_comm, div_eq_mul_inv (sgn (sign a) : ℚ), hinv]
  field_simp

end

theorem ofInt_roundsOnce {i : Int} (h : |(i : ℚ)| < roundingLimit) : RoundsOnce i (ofInt i) := by
  have hone := one_cast_pos.ne'
  have hsigned : (sgn (decide (i < 0)) : ℚ) * i.natAbs = i := by
    rw [← Int.cast_natCast, ← Int.cast_mul, sgn_decide_mul_natAbs]
  refine roundsOnce_round Nat.one_pos ?_ h
  rw [Nat.cast_one, div_one, Nat.cast_mul, ← mul_assoc, hsigned, mul_div_cancel_right₀ _ hone]

/-- `float(i)` is exact up to `2 ^ 53`: below it by its 53 bits, and there because the last of 54 is zero. -/
theorem ofInt_exact_le {i : Int} (h : i.natAbs ≤ 2 ^ 53) : isFinite (ofInt i) = true ∧ value (ofInt i) = i := by
  have hunits : isFinite (ofInt i) = true ∧ units (ofInt i) = i * one := by
    rcases h.lt_or_eq with hlt | heq
    · exact ofInt_exact hlt
    · rcases Int.natAbs_eq_iff.1 heq with rfl | rfl <;> decide +kernel
  refine ⟨hunits.1, ?_⟩
  rw [value_eq, hunits.2, Int.cast_mul, Int.cast_natCast, mul_div_cancel_right₀ _ one_cast_pos.ne']

/-- Settles O21: every operation is one `round` of its exact result, which is nearest and ties to even below the limit. -/
theorem floatOperationsRoundOnceToNearestEven : Obligations.FloatOperationsRoundOnceToNearestEven := by
  refine ⟨value_usecPerSec, fun i h => (ofInt_roundsOnce h).1, fun i h => ofInt_exact_le h, fun a b ha hb => ?_⟩
  exact ⟨fun h => (fadd_roundsOnce ha hb h).1, fun h => (fsub_roundsOnce ha hb h).1,
    fun h => (fmul_roundsOnce ha hb h).1, fun h0 h => (fdiv_roundsOnce ha hb h0 h).1⟩

end Sys2Proof.Binary64
end

section
/-! A magnitude fixes the exponent and the fraction, so that equal values have equal patterns but for the sign of zero
(41_interval rule R89). -/

namespace Sys2Proof.Binary64

open Sys2Proof.Safety

/-- The magnitudes of a smaller exponent are all smaller. -/
theorem mag_lt_mag_of_expo_lt {a b : Binary64} (h : expo a < expo b) : mag a < mag b := by
  rw [mag_eq_significand_mul a, mag_eq_significand_mul b]
  have hb := le_significand (x := b) (by omega)
  have ha := significand_lt a
  rcases Nat.eq_zero_or_pos (expo a) with h0 | hpos
  · have hsub : significand a < 2 ^ 52 := by
      rw [significand, if_pos h0]
      exact frac_lt a
    rw [h0, Nat.zero_sub, pow_zero, Nat.mul_one]
    exact (hsub.trans_le hb).trans_le (Nat.le_mul_of_pos_right _ (Nat.two_pow_pos _))
  · calc significand a * 2 ^ (expo a - 1) < 2 ^ 53 * 2 ^ (expo a - 1) :=
          Nat.mul_lt_mul_of_pos_right ha (Nat.two_pow_pos _)
      _ = 2 ^ 52 * 2 ^ expo a := by rw [← pow_add, ← pow_add]; congr 1; omega
      _ ≤ significand b * 2 ^ (expo b - 1) := Nat.mul_le_mul hb (Nat.pow_le_pow_right (by decide) (by omega))

theorem expo_le_of_mag_le {a b : Binary64} (h : mag a ≤ mag b) : expo a ≤ expo b :=
  le_of_not_gt fun hlt => (mag_lt_mag_of_expo_lt hlt).not_ge h

/-- Bits 62 to 0 are the exponent over the fraction. -/
theorem toNat_mod_eq (x : Binary64) : x.toNat % 2 ^ 63 = expo x * 2 ^ 52 + frac x := by
  rw [expo_eq, frac_eq]
  omega

theorem shiftLeft_one_eq_zero_iff (x : Binary64) : x <<< 1 = 0 ↔ mag x = 0 := by
  have hpattern : x <<< 1 = 0 ↔ x.toNat % 2 ^ 63 = 0 := by
    rw [← BitVec.toNat_inj, BitVec.toNat_shiftLeft, Nat.shiftLeft_eq]
    simp only [BitVec.ofNat_eq_ofNat, BitVec.toNat_ofNat]
    omega
  rw [hpattern, toNat_mod_eq, mag_eq_significand_mul, Nat.mul_eq_zero, or_iff_left (Nat.two_pow_pos _).ne']
  unfold significand
  split <;> omega

/-- The exponent and fraction bits are those of the magnitude. -/
theorem toNat_mod_eq_of_mag_eq {a b : Binary64} (h : mag a = mag b) : a.toNat % 2 ^ 63 = b.toNat % 2 ^ 63 := by
  have hexpo : expo a = expo b := le_antisymm (expo_le_of_mag_le h.le) (expo_le_of_mag_le h.ge)
  have hsig : significand a = significand b := by
    rw [mag_eq_significand_mul a, mag_eq_significand_mul b, hexpo] at h
    exact Nat.eq_of_mul_eq_mul_right (Nat.two_pow_pos _) h
  rw [toNat_mod_eq, toNat_mod_eq, hexpo]
  unfold significand at hsig
  rw [hexpo] at hsig
  split at hsig <;> omega

theorem eq_of_sign_eq_of_mag_eq {a b : Binary64} (hs : sign a = sign b) (hm : mag a = mag b) : a = b := by
  have hlow := toNat_mod_eq_of_mag_eq hm
  have ha := a.isLt
  have hb := b.isLt
  have hsign : a.toNat / 2 ^ 63 % 2 = b.toNat / 2 ^ 63 % 2 := by
    have hs : a.toNat.testBit 63 = b.toNat.testBit 63 := hs
    rw [Nat.testBit_eq_decide_div_mod_eq, Nat.testBit_eq_decide_div_mod_eq, decide_eq_decide] at hs
    omega
  exact BitVec.eq_of_toNat_eq (by omega)

/-- Equal values are equal patterns or two zeros. -/
theorem value_eq_value_iff {a b : Binary64} : value a = value b ↔ a = b ∨ (mag a = 0 ∧ mag b = 0) := by
  constructor
  · intro h
    have hunits : units a = units b := by
      rw [value_eq, value_eq, div_left_inj' one_cast_pos.ne'] at h
      exact_mod_cast h
    have hmag : mag a = mag b := by rw [← natAbs_units, ← natAbs_units, hunits]
    by_cases hs : sign a = sign b
    · exact .inl (eq_of_sign_eq_of_mag_eq hs hmag)
    · rw [units, units, hmag] at hunits
      refine .inr (and_iff_right_of_imp hmag.trans |>.2 ?_)
      revert hunits hs
      cases sign a <;> cases sign b <;> simp
  · rintro (rfl | ⟨ha, hb⟩)
    · rfl
    · rw [(value_eq_zero_iff a).2 ha, (value_eq_zero_iff b).2 hb]

/-- Without NaNs, `feq` asks for one pattern or two zeros. -/
theorem feq_eq_true_iff {a b : Binary64} (ha : isNaN a = false) (hb : isNaN b = false) :
    feq a b = true ↔ a = b ∨ (mag a = 0 ∧ mag b = 0) := by
  simp [feq, ha, hb, ← shiftLeft_one_eq_zero_iff]

theorem isNaN_of_isFinite {x : Binary64} (h : isFinite x = true) : isNaN x = false := by
  simp only [isFinite, bne_iff_ne, ne_eq] at h
  simp [isNaN, h]

theorem mag_ne_zero_of_not_isFinite {x : Binary64} (h : isFinite x = false) : mag x ≠ 0 := by
  have hexpo : expo x = 2047 := by simpa [isFinite] using h
  have hsig := le_significand (x := x) (by omega)
  rw [mag_eq_significand_mul]
  exact Nat.mul_ne_zero (by omega) (Nat.two_pow_pos _).ne'

/-- Settles O22: without NaNs `feq` is equality of values where these are finite, and an infinity is not a zero. -/
theorem floatEqualityIsEqualityOfValues : Obligations.FloatEqualityIsEqualityOfValues := by
  intro a b
  refine ⟨fun hnan => ?_, fun ha hb => ?_, fun ha hb hinf => ?_⟩
  · rcases hnan with h | h <;> simp [feq, h]
  · rw [feq_eq_true_iff (isNaN_of_isFinite ha) (isNaN_of_isFinite hb), value_eq_value_iff]
  · have hne := mag_ne_zero_of_not_isFinite hinf
    rw [feq_eq_true_iff ha hb, feq_eq_true_iff hb ha]
    simp [hne, eq_comm]

end Sys2Proof.Binary64
end

section
/-! Laws of rounding and of truncation on exact values: rounding is odd and does not pass a `Float`; truncation is odd, keeps the sign
and drops less than one (41_interval rules R78, R80; 00_scope rule R11). -/

namespace Sys2Proof.Safety

open Sys2Proof.Binary64

theorem lastBit_neg (x : Binary64) : (neg x).getLsbD 0 = x.getLsbD 0 := by
  simp [neg]

namespace RoundsTo

variable {q : ℚ} {p y : Binary64}

/-- Rounding does not pass a `Float` above. -/
theorem value_le (h : RoundsTo q p) (hy : Binary64.isFinite y = true) (hq : q ≤ value y) : value p ≤ value y := by
  have hnear := (h.2 y hy).1
  rw [abs_of_nonneg (sub_nonneg.2 hq)] at hnear
  linarith [le_abs_self (value p - q)]

theorem neg (h : RoundsTo q p) : RoundsTo (-q) (Binary64.neg p) := by
  have hdist : ∀ z : Binary64, |value (Binary64.neg z) - -q| = |value z - q| := fun z => by
    rw [value_neg, neg_sub_neg, abs_sub_comm]
  refine ⟨(isFinite_neg p).trans h.1, fun y hy => ?_⟩
  obtain ⟨hle, htie⟩ := h.2 (Binary64.neg y) ((isFinite_neg y).trans hy)
  have hy' : |value (Binary64.neg y) - q| = |value y - -q| := by
    rw [value_neg, ← abs_neg]
    congr 1
    ring
  rw [hy'] at hle htie
  rw [hdist, value_neg p, lastBit_neg]
  refine ⟨hle, fun heq => (htie heq).imp_left fun hsame => ?_⟩
  rw [value_neg] at hsame
  linarith

/-- Rounding does not pass a `Float` below. -/
theorem le_value (h : RoundsTo q p) (hy : Binary64.isFinite y = true) (hq : value y ≤ q) : value y ≤ value p := by
  have := h.neg.value_le ((isFinite_neg y).trans hy) (by rw [value_neg]; linarith)
  rw [value_neg, value_neg] at this
  linarith

theorem value_zero : value (0 : Binary64) = 0 := (value_eq_zero_iff 0).2 rfl

theorem nonneg (h : RoundsTo q p) (hq : 0 ≤ q) : 0 ≤ value p := by
  rw [← value_zero] at hq ⊢
  exact h.le_value rfl hq

theorem nonpos (h : RoundsTo q p) (hq : q ≤ 0) : value p ≤ 0 := by
  rw [← value_zero] at hq ⊢
  exact h.value_le rfl hq

/-- Zero is a candidate. -/
theorem abs_value_le (h : RoundsTo q p) : |value p| ≤ 2 * |q| := by
  have hnear := (h.2 0 rfl).1
  rw [value_zero, zero_sub, abs_neg] at hnear
  have := abs_sub_abs_le_abs_sub (value p) q
  linarith

/-- Rounding stays below a bound where the exact value is nearer to a `Float` under the bound than to the bound. -/
theorem value_lt (h : RoundsTo q p) {c : ℚ} (hy : Binary64.isFinite y = true) (hyc : value y < c)
    (hq : 2 * q < value y + c) : value p < c := by
  by_contra hge
  have hnear := (h.2 y hy).1
  have hfar := le_abs_self (value p - q)
  rcases abs_cases (value y - q) with ⟨habs, -⟩ | ⟨habs, -⟩ <;> linarith

theorem abs_value_lt (h : RoundsTo q p) {c : ℚ} (hy : Binary64.isFinite y = true) (hyc : value y < c)
    (hq : 2 * |q| < value y + c) : |value p| < c := by
  refine abs_lt.2 ⟨?_, h.value_lt hy hyc (by linarith [le_abs_self q])⟩
  have := h.neg.value_lt hy hyc (by linarith [neg_le_abs q])
  rw [value_neg] at this
  linarith

end RoundsTo

theorem ratTrunc_of_nonneg {q : ℚ} (h : 0 ≤ q) : ratTrunc q = ⌊q⌋ := by
  rw [ratTrunc, if_neg h.not_gt]

theorem ratTrunc_neg (q : ℚ) : ratTrunc (-q) = -ratTrunc q := by
  unfold ratTrunc
  rcases lt_trichotomy q 0 with h | rfl | h
  · rw [if_pos h, if_neg (by linarith), neg_neg]
  · simp
  · rw [if_pos (by linarith), if_neg h.not_gt, neg_neg]

theorem ratTrunc_nonneg {q : ℚ} (h : 0 ≤ q) : 0 ≤ ratTrunc q := by
  rw [ratTrunc_of_nonneg h]
  exact Int.floor_nonneg.2 h

theorem ratTrunc_nonpos {q : ℚ} (h : q ≤ 0) : ratTrunc q ≤ 0 := by
  have := ratTrunc_nonneg (neg_nonneg.2 h)
  rw [ratTrunc_neg] at this
  linarith

/-- What truncation drops is a fraction of the value's sign. -/
theorem sub_ratTrunc_mem {q : ℚ} (h : 0 ≤ q) : 0 ≤ q - ratTrunc q ∧ q - ratTrunc q < 1 := by
  rw [ratTrunc_of_nonneg h]
  exact ⟨Int.fract_nonneg q, Int.fract_lt_one q⟩

theorem sub_ratTrunc_nonneg {q : ℚ} (h : 0 ≤ q) : 0 ≤ q - ratTrunc q := (sub_ratTrunc_mem h).1

theorem sub_ratTrunc_nonpos {q : ℚ} (h : q ≤ 0) : q - ratTrunc q ≤ 0 := by
  have := sub_ratTrunc_nonneg (neg_nonneg.2 h)
  rw [ratTrunc_neg] at this
  push_cast at this
  linarith

theorem abs_sub_ratTrunc_lt_one (q : ℚ) : |q - ratTrunc q| < 1 := by
  rcases le_total 0 q with h | h
  · rw [abs_of_nonneg (sub_ratTrunc_nonneg h)]
    exact (sub_ratTrunc_mem h).2
  · have := (sub_ratTrunc_mem (neg_nonneg.2 h)).2
    rw [ratTrunc_neg] at this
    rw [abs_of_nonpos (sub_ratTrunc_nonpos h)]
    push_cast at this
    linarith

theorem abs_ratTrunc_le (q : ℚ) : |(ratTrunc q : ℚ)| ≤ |q| := by
  rcases le_total 0 q with h | h
  · rw [abs_of_nonneg h, abs_of_nonneg (by exact_mod_cast ratTrunc_nonneg h)]
    linarith [sub_ratTrunc_nonneg h]
  · rw [abs_of_nonpos h, abs_of_nonpos (by exact_mod_cast ratTrunc_nonpos h)]
    linarith [sub_ratTrunc_nonpos h]

/-- `trunc` is the truncation of the value (00_scope rule R11). -/
theorem trunc_eq_ratTrunc {x : Binary64} (h : isFinite x = true) : trunc x = ratTrunc (value x) := by
  have hfloor : ⌊(mag x : ℚ) / one⌋ = ((mag x / one : Nat) : Int) := by
    rw [Rat.floor_natCast_div_natCast, Int.natCast_div]
  have hmag : (0 : ℚ) ≤ (mag x : ℚ) / one := div_nonneg (Nat.cast_nonneg _) one_cast_pos.le
  rw [trunc, if_pos h, value_eq_sgn_mul]
  cases sign x
  · rw [sgn, if_neg Bool.false_ne_true, if_neg Bool.false_ne_true, Int.cast_one, one_mul, ratTrunc_of_nonneg hmag, hfloor]
  · rw [sgn, if_pos rfl, if_pos rfl, Int.cast_neg, Int.cast_one, neg_mul, one_mul, neg_div, ratTrunc_neg,
      ratTrunc_of_nonneg hmag, hfloor]

/-- Truncating after rounding is less than one off a non-negative exact value: rounding passes neither integer around it, for these are
`Float`s. -/
theorem RoundsTo.abs_sub_ratTrunc_lt_one_of_nonneg {q : ℚ} {p : Binary64} (h : RoundsTo q p) (h0 : 0 ≤ q) (hq : q < 2 ^ 51) :
    |q - ratTrunc (value p)| < 1 := by
  have hp : 0 ≤ value p := h.nonneg h0
  obtain ⟨hlo, hhi⟩ := sub_ratTrunc_mem hp
  have hu : 0 ≤ ratTrunc (value p) := ratTrunc_nonneg hp
  have hsize : (ratTrunc (value p) : ℚ) < 2 ^ 52 := by
    have := h.abs_value_le
    rw [abs_of_nonneg hp, abs_of_nonneg h0] at this
    linarith
  have hsize' : ratTrunc (value p) < 2 ^ 52 := by exact_mod_cast hsize
  generalize ratTrunc (value p) = u at *
  obtain ⟨hfinUp, hup⟩ := ofInt_exact_le (i := u + 1) (by omega)
  obtain ⟨hfinDown, hdown⟩ := ofInt_exact_le (i := u - 1) (by omega)
  push_cast at hup hdown
  refine abs_lt.2 ⟨?_, ?_⟩ <;> by_contra hfar
  · have := h.value_le hfinDown (by linarith)
    linarith
  · have := h.le_value hfinUp (by linarith)
    linarith

theorem RoundsTo.abs_sub_ratTrunc_lt_one {q : ℚ} {p : Binary64} (h : RoundsTo q p) (hq : |q| < 2 ^ 51) :
    |q - ratTrunc (value p)| < 1 := by
  obtain ⟨hlo, hhi⟩ := abs_lt.1 hq
  rcases le_total 0 q with h0 | h0
  · exact h.abs_sub_ratTrunc_lt_one_of_nonneg h0 hhi
  · have := h.neg.abs_sub_ratTrunc_lt_one_of_nonneg (neg_nonneg.2 h0) (by linarith)
    rwa [value_neg, ratTrunc_neg, Int.cast_neg, neg_sub_neg, abs_sub_comm] at this

end Sys2Proof.Safety
end

section
/-! IVAL.TOWIRE in exact terms: the subtraction loses nothing, so that the product's rounding is the only one, and `usec` stays below a
million (41_interval rules R80 to R83). -/

namespace Sys2Proof.Binary64

open Sys2Proof.Safety

/-- A remainder keeps the shift of its dividend, so it needs no more bits. -/
theorem mag_mod_two_pow (x : Binary64) (k : Nat) : ∃ n < 2 ^ 53, mag x % 2 ^ k = n * 2 ^ (expo x - 1) := by
  rw [mag_eq_significand_mul]
  rcases le_total k (expo x - 1) with hle | hge
  · refine ⟨0, by decide, ?_⟩
    rw [zero_mul]
    exact Nat.mod_eq_zero_of_dvd (Dvd.dvd.mul_left (pow_dvd_pow 2 hle) _)
  · refine ⟨significand x % 2 ^ (k - (expo x - 1)), (Nat.mod_le _ _).trans_lt (significand_lt x), ?_⟩
    rw [← Nat.mul_mod_mul_right, pow_sub_mul_pow 2 hge]

/-- A 53-bit number at a shift has no bits that `shiftOf` counts below the shift. -/
theorem shiftOf_mul_two_pow_le {n j : Nat} (hn : n < 2 ^ 53) : shiftOf (n * 2 ^ j) 1 ≤ j := by
  refine (shiftOf_le (e := 52 + j) ?_).trans_eq (Nat.add_sub_cancel_left ..)
  rw [Nat.mul_one, Nat.add_right_comm, pow_add]
  exact Nat.mul_lt_mul_of_pos_right hn (Nat.two_pow_pos _)

/-- `x - float(trunc(x))` is exact (rule R81): it is the remainder by 1.0, which is a `Float` of the operand's sign. -/
theorem fsub_trunc_exact {x : Binary64} (h : isFinite x = true) (hsec : (trunc x).natAbs < 2 ^ 53) :
    isFinite (fsub x (ofInt (trunc x))) = true ∧
      value (fsub x (ofInt (trunc x))) = value x - ratTrunc (value x) := by
  obtain ⟨hfin, hunits⟩ := ofInt_exact hsec
  obtain ⟨k, hk, hone⟩ := one_eq_two_pow
  obtain ⟨n, hn, hmod⟩ := mag_mod_two_pow x k
  have hsum : units x + units (neg (ofInt (trunc x))) = (units x).tmod one := by
    rw [units_neg, hunits, trunc_eq_tdiv h, Int.tmod_def]
    ring
  have hrem : (units x + units (neg (ofInt (trunc x)))).natAbs = n * 2 ^ (expo x - 1) := by
    rw [hsum, Int.natAbs_tmod, natAbs_units, Int.natAbs_natCast, hone, hmod]
  have hsmall : shiftOf (n * 2 ^ (expo x - 1)) 1 ≤ k - 52 := by
    refine shiftOf_le ?_
    rw [Nat.mul_one, ← hmod]
    exact (Nat.mod_lt _ (Nat.two_pow_pos k)).trans (Nat.pow_lt_pow_succ (by decide))
  have hdvd : 2 ^ shiftOf (n * 2 ^ (expo x - 1)) 1 ∣ n * 2 ^ (expo x - 1) :=
    Dvd.dvd.mul_left (pow_dvd_pow 2 (shiftOf_mul_two_pow_le hn)) n
  obtain ⟨hdfin, hdunits⟩ := fadd_exact h ((isFinite_neg _).trans hfin) (by rw [hrem]; omega) (by rwa [hrem])
  refine ⟨hdfin, ?_⟩
  rw [fsub, value_eq, hdunits, units_neg, hunits, ← trunc_eq_ratTrunc h, value_eq, ← sub_eq_add_neg, Int.cast_sub, sub_div,
    Int.cast_mul, Int.cast_natCast, mul_div_cancel_right₀ _ one_cast_pos.ne']

/-- Below `2 ^ (53 + k)` the magnitudes end at 53 one bits. -/
theorem mag_add_le_of_lt_two_pow {x : Binary64} {k : Nat} (h : mag x < 2 ^ (53 + k)) : mag x + 2 ^ k ≤ 2 ^ (53 + k) := by
  have hsig : significand x + 1 ≤ 2 ^ 53 := significand_lt x
  rw [mag_eq_significand_mul, pow_add] at h ⊢
  rcases le_total k (expo x - 1) with hle | hge
  · rw [← pow_sub_mul_pow 2 hle, ← Nat.mul_assoc] at h ⊢
    rw [← Nat.succ_mul]
    exact Nat.mul_le_mul_right _ (Nat.lt_of_mul_lt_mul_right h)
  · calc significand x * 2 ^ (expo x - 1) + 2 ^ k ≤ significand x * 2 ^ k + 2 ^ k :=
          Nat.add_le_add_right (Nat.mul_le_mul_left _ (Nat.pow_le_pow_right (by decide) hge)) _
      _ = (significand x + 1) * 2 ^ k := (Nat.succ_mul ..).symm
      _ ≤ 2 ^ 53 * 2 ^ k := Nat.mul_le_mul_right _ hsig

/-- A `Float` below 1 in magnitude keeps a distance of `2 ^ -53`. -/
theorem abs_value_le_of_lt_one {x : Binary64} (h : |value x| < 1) : |value x| ≤ 1 - 1 / 2 ^ 53 := by
  have hshift : ∀ k : Nat, 1 <<< (53 + k) = 2 ^ (53 + k) := fun _ => Nat.one_shiftLeft _
  obtain ⟨k, hone⟩ : ∃ k, one = 2 ^ (53 + k) := ⟨1021, hshift 1021⟩
  have hlt : mag x < 2 ^ (53 + k) := by
    rw [abs_value, div_lt_one one_cast_pos, hone] at h
    exact_mod_cast h
  have hle : (mag x + 2 ^ k : ℚ) ≤ 2 ^ (53 + k) := by exact_mod_cast mag_add_le_of_lt_two_pow hlt
  rw [abs_value, div_le_iff₀ one_cast_pos, hone]
  push_cast
  rw [pow_add] at hle ⊢
  linarith

end Sys2Proof.Binary64

namespace Sys2Proof.Interval

open Sys2Proof.Safety Sys2Proof.Binary64

/-- The fraction of a value of the domain, which the subtraction computes exactly, is a `Float` below 1. -/
theorem abs_fraction_le {x : Binary64} (h : InDomain x) :
    |value x - ratTrunc (value x)| ≤ 1 - 1 / 2 ^ 53 := by
  obtain ⟨hlo, hhi⟩ := trunc_bounds h
  obtain ⟨-, hval⟩ := fsub_trunc_exact h.1 (by omega)
  rw [← hval]
  exact abs_value_le_of_lt_one (by rw [hval]; exact abs_sub_ratTrunc_lt_one _)

/-- `toWire` on the domain in exact terms (rules R80, R81): one rounding, of the product. -/
theorem toWire_spec {x : Binary64} (h : InDomain x) :
    (toWire arith x).1.toInt = ratTrunc (value x) ∧
      ∃ p, RoundsTo ((value x - ratTrunc (value x)) * 1000000) p ∧ (toWire arith x).2.toInt = ratTrunc (value p) := by
  obtain ⟨hlo, hhi⟩ := trunc_bounds h
  obtain ⟨hsec, husec⟩ := toInt_toWire h
  obtain ⟨hdfin, hdval⟩ := fsub_trunc_exact h.1 (by omega)
  have hfraction := abs_fraction_le h
  have hproduct := (fmul_roundsOnce hdfin (b := Config.usecPerSec) (by decide) (by
    rw [hdval, value_usecPerSec, abs_mul, abs_of_pos (by norm_num : (0 : ℚ) < 1000000)]
    exact lt_trans (by linarith) two_pow_53_lt_roundingLimit)).1
  rw [hdval, value_usecPerSec] at hproduct
  exact ⟨hsec.trans (trunc_eq_ratTrunc h.1), _, hproduct, husec.trans (trunc_eq_ratTrunc hproduct.1)⟩

/-- The greatest `Float` below 1000000.0. -/
def belowMillion : Binary64 := 0x412E847FFFFFFFFF#64

theorem value_belowMillion : value belowMillion = 1000000 - 1 / 2 ^ 33 := by decide +kernel

/-- The product rounds to less than a million (rule R82): the exact one is nearer to the `Float` below. -/
theorem abs_usec_lt {x p : Binary64} (h : InDomain x)
    (hp : RoundsTo ((value x - ratTrunc (value x)) * 1000000) p) : |(ratTrunc (value p) : ℚ)| < 1000000 := by
  refine (abs_ratTrunc_le _).trans_lt (hp.abs_value_lt (y := belowMillion) rfl ?_ ?_)
  · rw [value_belowMillion]
    norm_num
  · have := abs_fraction_le h
    rw [abs_mul, abs_of_pos (by norm_num : (0 : ℚ) < 1000000), value_belowMillion]
    norm_num at this ⊢
    linarith

/-- Both halves have the sign of the operand (rule R83). -/
theorem toWire_nonneg {x : Binary64} (h : InDomain x) (h0 : 0 ≤ value x) :
    0 ≤ (toWire arith x).1.toInt ∧ 0 ≤ (toWire arith x).2.toInt := by
  obtain ⟨hsec, p, hp, husec⟩ := toWire_spec h
  rw [hsec, husec]
  exact ⟨ratTrunc_nonneg h0, ratTrunc_nonneg (hp.nonneg (mul_nonneg (sub_ratTrunc_nonneg h0) (by norm_num)))⟩

theorem toWire_nonpos {x : Binary64} (h : InDomain x) (h0 : value x ≤ 0) :
    (toWire arith x).1.toInt ≤ 0 ∧ (toWire arith x).2.toInt ≤ 0 := by
  obtain ⟨hsec, p, hp, husec⟩ := toWire_spec h
  rw [hsec, husec]
  exact ⟨ratTrunc_nonpos h0,
    ratTrunc_nonpos (hp.nonpos (mul_nonpos_of_nonpos_of_nonneg (sub_ratTrunc_nonpos h0) (by norm_num)))⟩

end Sys2Proof.Interval

namespace Sys2Proof.Machine

open Sys2Proof.Safety

/-- On the domain IVAL.TOWIRE delivers `toWire`. -/
theorem exec_ivalToWire (s : State) (h : InDomain s.operands.seconds) :
    exec .ivalToWire s = .next (s.deliver (.ok (.ivalToWire (Interval.toWire Binary64.arith s.operands.seconds).1
      (Interval.toWire Binary64.arith s.operands.seconds).2))) := by
  refine exec_eq_deliver_iff.2 ⟨rfl, ?_⟩
  rw [resultOf, Interval.toWireOr, if_pos (Interval.inDomain_arith h)]

/-- Settles O15: the only rounding that loses anything is that of the product. -/
theorem ivalToWireTruncatesWithOneRounding : Obligations.IvalToWireTruncatesWithOneRounding := by
  intro s h
  obtain ⟨hsec, p, hp, husec⟩ := Interval.toWire_spec h
  exact ⟨_, _, p, exec_ivalToWire s h, hsec, by rwa [hsec], husec⟩

/-- Settles O17: truncation does not pass the operand and keeps its sign, and so do the fraction and its rounded product, which stays
below a million. -/
theorem ivalToWireFieldsStayInRange : Obligations.IvalToWireFieldsStayInRange := by
  intro s h
  obtain ⟨hsec, p, hp, husec⟩ := Interval.toWire_spec h
  obtain ⟨hlo, hhi⟩ := abs_lt.1 (Interval.abs_usec_lt h hp)
  rw [← husec] at hlo hhi
  norm_cast at hlo hhi
  refine ⟨_, _, exec_ivalToWire s h, by omega, by omega, ?_, Interval.toWire_nonneg h, Interval.toWire_nonpos h⟩
  rw [hsec]
  exact abs_ratTrunc_le _

end Sys2Proof.Machine
end

section
/-! IVAL.FROMWIRE in exact terms, two roundings of which the second is of the larger value, and the interval round trip
(41_interval rules R84, R85, R87). -/

namespace Sys2Proof.Interval

open Sys2Proof.Safety Sys2Proof.Binary64

/-- A 32-bit integer is an exact `Float`, and small. -/
theorem ofInt_toInt (w : SInt) :
    isFinite (ofInt w.toInt) = true ∧ value (ofInt w.toInt) = w.toInt ∧ |(w.toInt : ℚ)| ≤ 2 ^ 31 := by
  have hlo := BitVec.le_two_mul_toInt (x := w)
  have hhi := BitVec.two_mul_toInt_lt (x := w)
  obtain ⟨hfin, hval⟩ := ofInt_exact_le (i := w.toInt) (by omega)
  refine ⟨hfin, hval, abs_le.2 ⟨?_, ?_⟩⟩ <;> norm_cast <;> omega

/-- `fromWire` rounds the quotient, and then the sum with it (rules R85, R87). -/
theorem fromWire_spec (sec usec : SInt) :
    ∃ q, RoundsOnce ((usec.toInt : ℚ) / 1000000) q ∧ RoundsOnce ((sec.toInt : ℚ) + value q) (fromWire arith sec usec) := by
  obtain ⟨hsfin, hsval, hs⟩ := ofInt_toInt sec
  obtain ⟨hufin, huval, hu⟩ := ofInt_toInt usec
  have hquotient : |(usec.toInt : ℚ) / 1000000| ≤ 2 ^ 31 / 1000000 := by
    rw [abs_div, abs_of_pos (by norm_num : (0 : ℚ) < 1000000)]
    exact div_le_div_of_nonneg_right hu (by norm_num)
  have hq := fdiv_roundsOnce hufin (b := Config.usecPerSec) (by decide) (by rw [value_usecPerSec]; norm_num) (by
    rw [huval, value_usecPerSec]
    exact lt_trans (hquotient.trans_lt (by norm_num)) two_pow_53_lt_roundingLimit)
  rw [huval, value_usecPerSec] at hq
  have hsum := fadd_roundsOnce hsfin hq.1.1 (by
    rw [hsval]
    refine lt_trans ((abs_add_le _ _).trans_lt ?_) two_pow_53_lt_roundingLimit
    calc |(sec.toInt : ℚ)| + |value _| ≤ 2 ^ 31 + 2 * (2 ^ 31 / 1000000) :=
          add_le_add hs (hq.1.abs_value_le.trans (mul_le_mul_of_nonneg_left hquotient two_pos.le))
      _ < 2 ^ 53 := by norm_num)
  rw [hsval] at hsum
  exact ⟨_, hq, hsum⟩

theorem ulp_le_ulp {a b : Binary64} (h : |value a| ≤ |value b|) : ulp a ≤ ulp b := by
  rw [abs_value, abs_value, div_le_div_iff_of_pos_right one_cast_pos, Nat.cast_le] at h
  have := expo_le_of_mag_le h
  rw [ulp_eq, ulp_eq, div_le_div_iff_of_pos_right one_cast_pos]
  exact pow_le_pow_right₀ one_le_two (by omega)

/-- Of a pair without opposite signs the sum is the larger value, so that the two halves of units lost are at most one unit of the
result. -/
theorem abs_fromWire_sub_le {sec usec : SInt}
    (h : 0 ≤ sec.toInt ∧ 0 ≤ usec.toInt ∨ sec.toInt ≤ 0 ∧ usec.toInt ≤ 0) :
    |value (fromWire arith sec usec) - (sec.toInt + usec.toInt / 1000000)| ≤ ulp (fromWire arith sec usec) := by
  obtain ⟨q, ⟨hq, hqulp⟩, ⟨hy, hyulp⟩⟩ := fromWire_spec sec usec
  generalize fromWire arith sec usec = y at *
  have hlarger : |value q| ≤ |value y| := by
    rcases h with ⟨hs, hu⟩ | ⟨hs, hu⟩
    · have hsQ : (0 : ℚ) ≤ sec.toInt := by exact_mod_cast hs
      have huQ : (0 : ℚ) ≤ usec.toInt := by exact_mod_cast hu
      have hq0 := hq.nonneg (by positivity)
      have hle := hy.le_value hq.1 (by linarith)
      rwa [abs_of_nonneg hq0, abs_of_nonneg (hq0.trans hle)]
    · have hsQ : (sec.toInt : ℚ) ≤ 0 := by exact_mod_cast hs
      have huQ : (usec.toInt : ℚ) ≤ 0 := by exact_mod_cast hu
      have hq0 := hq.nonpos (div_nonpos_of_nonpos_of_nonneg huQ (by norm_num))
      have hle := hy.value_le hq.1 (by linarith)
      rw [abs_of_nonpos hq0, abs_of_nonpos (hle.trans hq0)]
      exact neg_le_neg hle
  have hulp := ulp_le_ulp hlarger
  calc |value y - (sec.toInt + usec.toInt / 1000000)|
      = |(value y - (sec.toInt + value q)) + (value q - usec.toInt / 1000000)| := by congr 1; ring
    _ ≤ |value y - (sec.toInt + value q)| + |value q - usec.toInt / 1000000| := abs_add_le _ _
    _ ≤ ulp y := by linarith

/-- The pair of a value of the domain is less than a microsecond off: only the truncation after the product loses (rule R84). -/
theorem abs_toWire_sub_lt {x : Binary64} (h : InDomain x) :
    |((toWire arith x).1.toInt + (toWire arith x).2.toInt / 1000000 : ℚ) - value x| < 1 / 1000000 := by
  obtain ⟨hsec, p, hp, husec⟩ := toWire_spec h
  have hlt := hp.abs_sub_ratTrunc_lt_one (by
    rw [abs_mul, abs_of_pos (by norm_num : (0 : ℚ) < 1000000)]
    calc |value x - ratTrunc (value x)| * 1000000 ≤ (1 - 1 / 2 ^ 53) * 1000000 :=
          mul_le_mul_of_nonneg_right (abs_fraction_le h) (by norm_num)
      _ < 2 ^ 51 := by norm_num)
  rw [hsec, husec, ← mul_lt_mul_iff_left₀ (by norm_num : (0 : ℚ) < 1000000),
    ← abs_of_pos (by norm_num : (0 : ℚ) < 1000000), ← abs_mul, abs_of_pos (by norm_num : (0 : ℚ) < 1000000), ← abs_neg]
  refine lt_of_eq_of_lt (congrArg _ ?_) (hlt.trans_eq (by norm_num))
  ring

/-- Rule R84: by way of the pair. -/
theorem abs_fromWire_toWire_sub_lt {x : Binary64} (h : InDomain x) :
    |value (fromWire arith (toWire arith x).1 (toWire arith x).2) - value x| <
      1 / 1000000 + |value (fromWire arith (toWire arith x).1 (toWire arith x).2) -
        ((toWire arith x).1.toInt + (toWire arith x).2.toInt / 1000000)| := by
  have htri := abs_sub_le (value (fromWire arith (toWire arith x).1 (toWire arith x).2))
    ((toWire arith x).1.toInt + (toWire arith x).2.toInt / 1000000) (value x)
  linarith [abs_toWire_sub_lt h]

end Sys2Proof.Interval

namespace Sys2Proof.Machine

open Sys2Proof.Safety

/-- Settles O19: the quotient and the sum of two 32-bit integers are far below the limit, so each is rounded once. -/
theorem ivalFromWireRoundsTwice : Obligations.IvalFromWireRoundsTwice := by
  intro s
  obtain ⟨q, hq, hy⟩ := Interval.fromWire_spec s.operands.sec s.operands.usec
  exact ⟨q, _, exec_eq_deliver_iff.2 ⟨rfl, rfl⟩, hq.1, hy.1⟩

/-- Settles O20: the pair is less than a microsecond off the operand, and its halves have one sign. -/
theorem intervalRoundTripLosesLessThanAMicrosecond : Obligations.IntervalRoundTripLosesLessThanAMicrosecond := by
  intro s o h
  refine ⟨_, _, _, exec_ivalToWire (s.withOperands o) h, exec_eq_deliver_iff.2 ⟨rfl, rfl⟩,
    Interval.abs_fromWire_toWire_sub_lt h, Interval.abs_fromWire_sub_le ?_⟩
  exact (le_total 0 (value o.seconds)).imp (Interval.toWire_nonneg h) (Interval.toWire_nonpos h)

end Sys2Proof.Machine
end

section
/-! The field-access primitives at any width and in both byte orders: what a write leaves in its field and outside it, and the signed
forms (20_memory rules R34 to R37). -/

namespace Sys2Proof.Buffer

/-- The bytes of a number put together from bytes are these. -/
theorem ofNatLE_toNatLE (bs : List Byte) : ofNatLE bs.length (toNatLE bs) = bs := by
  induction bs with
  | nil => rfl
  | cons b bs ih =>
    have hb := b.isLt
    have hlow : BitVec.ofNat 8 (b.toNat + 256 * toNatLE bs) = b :=
      BitVec.eq_of_toNat_eq (by rw [BitVec.toNat_ofNat]; omega)
    have hhigh : (b.toNat + 256 * toNatLE bs) / 256 = toNatLE bs := by omega
    rw [List.length_cons, toNatLE, ofNatLE, hlow, hhigh, ih]

variable {o : ByteOrder} {buf : Buffer} {off : Nat}

/-- Reading a field written with other bytes puts these together. -/
theorem memRead_overwrite (bytes : List Byte) (h : off ≤ buf.length) :
    memRead o (overwrite buf off bytes) off bytes.length = toNatLE (ordered o bytes) := by
  rw [memRead, slice_overwrite buf off bytes h]

theorem length_memWrite {n v : Nat} (h : off + n ≤ buf.length) : (memWrite o buf off n v).length = buf.length :=
  length_overwrite _ _ _ (by simpa using h)

theorem memRead_memWrite {n v : Nat} (h : off + n ≤ buf.length) (hv : v < 256 ^ n) :
    memRead o (memWrite o buf off n v) off n = v := by
  have hread := memRead_overwrite (o := o) (buf := buf) (off := off) (ordered o (ofNatLE n v)) (by omega)
  rw [length_ordered, length_ofNatLE, ordered_ordered, toNatLE_ofNatLE n v hv] at hread
  exact hread

/-- A byte outside the bytes written is as before. -/
theorem getElem?_overwrite_of_outside {bytes : List Byte} {k : Nat} (h : off ≤ buf.length)
    (hk : k < off ∨ off + bytes.length ≤ k) : (overwrite buf off bytes)[k]? = buf[k]? := by
  rw [overwrite, List.append_assoc]
  rcases hk with hlt | hge
  · rw [List.getElem?_append_left (by rw [List.length_take]; omega), List.getElem?_take_of_lt hlt]
  · rw [List.getElem?_append_right (by rw [List.length_take]; omega), List.getElem?_append_right (by rw [List.length_take]; omega),
      List.getElem?_drop, List.length_take]
    congr 1
    omega

theorem getElem?_memWrite_of_outside {n v k : Nat} (h : off ≤ buf.length) (hk : k < off ∨ off + n ≤ k) :
    (memWrite o buf off n v)[k]? = buf[k]? :=
  getElem?_overwrite_of_outside h (by simpa using hk)

/-- Settles O45: the bytes stand in the field, and the buffer's two other parts are kept. -/
theorem memReadAfterMemWriteAndItsFrame : Obligations.MemReadAfterMemWriteAndItsFrame := by
  intro o buf off n v h hv
  rw [Nat.pow_mul] at hv
  exact ⟨memRead_memWrite h hv, length_memWrite h, fun k hk => getElem?_memWrite_of_outside (by omega) hk⟩

/-- Two's complement of `8 * n` bits gives back what fits it. -/
theorem signed_emod_eq {half v : Int} (hlo : -half ≤ v) (hhi : v < half) :
    (if v % (2 * half) < half then v % (2 * half) else v % (2 * half) - 2 * half) = v := by
  rcases le_or_gt 0 v with h0 | h0
  · rw [Int.emod_eq_of_lt h0 (by omega), if_pos hhi]
  · have hmod : v % (2 * half) = v + 2 * half := by
      rw [← Int.add_emod_right, Int.emod_eq_of_lt (by omega) (by omega)]
    rw [hmod, if_neg (by omega), add_sub_cancel_right]

/-- Settles O46: the unsigned form stores the two's complement, which is read back signed. -/
theorem memReadSAfterMemWriteS : Obligations.MemReadSAfterMemWriteS := by
  intro o buf off n v hn h hlo hhi
  have hdouble : (2 : Int) ^ (8 * n) = 2 * 2 ^ (8 * n - 1) := by
    rw [← pow_succ', Nat.sub_add_cancel (by omega)]
  have hpos : (0 : Int) < 2 ^ (8 * n) := by positivity
  have hstored : (((v % 2 ^ (8 * n)).toNat : Nat) : Int) = v % 2 ^ (8 * n) :=
    Int.toNat_of_nonneg (Int.emod_nonneg v hpos.ne')
  have hfits : (v % 2 ^ (8 * n)).toNat < 256 ^ n := by
    rw [show 256 = 2 ^ 8 from rfl, ← Nat.pow_mul]
    zify
    rw [hstored]
    exact Int.emod_lt_of_pos v hpos
  have hcond : (v % 2 ^ (8 * n)).toNat < 2 ^ (8 * n - 1) ↔ v % 2 ^ (8 * n) < 2 ^ (8 * n - 1) := by
    rw [← hstored]
    norm_cast
  rw [memReadS, memWriteS, memRead_memWrite h hfits]
  simp only [hcond, hstored]
  rw [hdouble]
  exact signed_emod_eq hlo hhi

end Sys2Proof.Buffer

namespace Sys2Proof.Laws.Wire

theorem toNatLE_four (b0 b1 b2 b3 : Byte) :
    Buffer.toNatLE [b0, b1, b2, b3] = (b3 ++ b2 ++ b1 ++ b0 : BitVec 32).toNat :=
  memRead_four [b0, b1, b2, b3] 0 le_rfl

theorem ofNatLE_toNat_append (b0 b1 b2 b3 : Byte) :
    Buffer.ofNatLE 4 (b3 ++ b2 ++ b1 ++ b0 : BitVec 32).toNat = [b0, b1, b2, b3] := by
  rw [← toNatLE_four]
  exact Buffer.ofNatLE_toNatLE [b0, b1, b2, b3]

/-- Settles O48: one of the two accesses reverses the four bytes, and the other does not. -/
theorem otherByteOrderReadsTheBytesReversed : Obligations.OtherByteOrderReadsTheBytesReversed := by
  intro buf off b0 b1 b2 b3 h
  have hoff : off ≤ buf.length := by omega
  rw [Buffer.memWrite, Buffer.memWrite, ofNatLE_toNat_append, ← toNatLE_four]
  exact ⟨Buffer.memRead_overwrite [b0, b1, b2, b3] hoff, Buffer.memRead_overwrite [b3, b2, b1, b0] hoff⟩

end Sys2Proof.Laws.Wire
end

section
/-! Normalization, and the frame round trip in either byte order: each field of the sixteen bytes is read where it was written
(40_frame rules R68, R74). -/

namespace Sys2Proof.Buffer

variable {o : ByteOrder} {buf : Buffer} {off : Nat}

/-- A field apart from the bytes written is read as before. -/
theorem memRead_overwrite_of_outside {bytes : List Byte} {off' n : Nat} (h : off ≤ buf.length)
    (hapart : off' + n ≤ off ∨ off + bytes.length ≤ off') :
    memRead o (overwrite buf off bytes) off' n = memRead o buf off' n := by
  have hslice : slice (overwrite buf off bytes) off' n = slice buf off' n := by
    apply List.ext_getElem?
    intro k
    simp only [slice, List.getElem?_take, List.getElem?_drop]
    split
    · exact getElem?_overwrite_of_outside h (by omega)
    · rfl
  rw [memRead, hslice, memRead]

theorem memRead_memWrite_of_outside {n v off' n' : Nat} (h : off ≤ buf.length)
    (hapart : off' + n' ≤ off ∨ off + n ≤ off') :
    memRead o (memWrite o buf off n v) off' n' = memRead o buf off' n' :=
  memRead_overwrite_of_outside h (by simpa using hapart)

end Sys2Proof.Buffer

namespace Sys2Proof

open Sys2Proof.Safety Sys2Proof.Laws.Wire

/-- The encoder's flags differ from the operand's in EFF alone, and there only when it is forced (rule R68). -/
theorem CanFrame.wireFlags_eq (f : CanFrame) :
    f.wireFlags = if mustForce f then f.flags ||| 0b100#3 else f.flags := by
  rw [CanFrame.wireFlags, forced_eq_mustForce]
  cases mustForce f
  · exact BitVec.or_zero
  · rfl

theorem CanFrame.norm_eq_of_mustForce_eq_false {f : CanFrame} (h : mustForce f = false) : f.norm = f := by
  rw [CanFrame.norm, CanFrame.wireFlags_eq, h, if_neg Bool.false_ne_true]

/-- After normalization EFF stands for every identifier above 0x7FF. -/
theorem CanFrame.getLsbD_norm_two (f : CanFrame) :
    f.norm.flags.getLsbD 2 = (f.flags.getLsbD 2 || decide (0x7FF < f.identifier.toNat)) := by
  rw [CanFrame.norm, CanFrame.wireFlags_eq, mustForce]
  cases heff : f.flags.getLsbD 2 with
  | true => rw [Bool.not_true, Bool.and_false, if_neg Bool.false_ne_true, heff, Bool.true_or]
  | false =>
    rw [Bool.not_false, Bool.and_true, Bool.false_or]
    split
    · next hid => rw [BitVec.getLsbD_or, hid, heff]; rfl
    · next hid => rw [heff, Bool.eq_false_of_not_eq_true hid]

theorem CanFrame.mustForce_norm (f : CanFrame) : mustForce f.norm = false := by
  rw [mustForce, CanFrame.getLsbD_norm_two]
  change (decide (0x7FF < f.identifier.toNat) && !(f.flags.getLsbD 2 || decide (0x7FF < f.identifier.toNat))) = false
  rw [Bool.not_or, Bool.and_left_comm, Bool.and_not_self, Bool.and_false]

/-- Settles O10: forcing touches EFF alone, and leaves nothing to force. -/
theorem normSetsOnlyEffAndIsIdempotent : Obligations.NormSetsOnlyEffAndIsIdempotent := by
  intro f
  have hbit : ∀ k, (0b100#3).getLsbD k = false → f.norm.flags.getLsbD k = f.flags.getLsbD k := fun k hk => by
    rw [CanFrame.norm, CanFrame.wireFlags_eq]
    split
    · rw [BitVec.getLsbD_or, hk, Bool.or_false]
    · rfl
  exact ⟨rfl, CanFrame.norm_eq_of_mustForce_eq_false f.mustForce_norm, rfl, rfl, rfl, hbit 0 rfl, hbit 1 rfl,
    f.getLsbD_norm_two⟩

theorem CanFrame.valid_iff {f : CanFrame} : f.valid = true ↔ f.identifier.toNat < 2 ^ 29 ∧ f.payloadLen.toNat ≤ 8 := by
  simp [CanFrame.valid, CanFrame.idLegal, CanFrame.tooLong, Config.payloadMax, Config.idMask, BitVec.ule]
  omega

/-- SameFrame (rule R75) is about the normal form's flags alone. -/
theorem sameFrame_norm_iff (f : CanFrame) : SameFrame f.norm f ↔ mustForce f = false := by
  constructor
  · rintro ⟨-, hflags, -, -⟩
    have := f.mustForce_norm
    rw [mustForce, hflags] at this
    exact this
  · intro h
    rw [CanFrame.norm_eq_of_mustForce_eq_false h]
    exact ⟨rfl, rfl, rfl, fun _ _ => rfl⟩

end Sys2Proof

namespace Sys2Proof.Laws.Wire

open Sys2Proof.Machine Sys2Proof.Safety

/-- A legal identifier has no bit in the place of the flags. -/
theorem getLsbD_of_legal {w : Word32} (h : w.toNat < 2 ^ 29) {i : Nat} (hi : 29 ≤ i) : w.getLsbD i = false :=
  Nat.testBit_lt_two_pow (h.trans_le (Nat.pow_le_pow_right (by decide) hi))

theorem flagsOfWord_frameWord {f : CanFrame} (h : f.identifier.toNat < 2 ^ 29) :
    flagsOfWord (frameWord f) = f.wireFlags := by
  rw [flagsOfWord_eq_extractLsb', frameWord, flagWord]
  ext i hi
  have hid : f.identifier.getLsbD (29 + i) = false := getLsbD_of_legal h (Nat.le_add_right 29 i)
  have hi' : 29 + i < 32 := by omega
  rw [BitVec.getLsbD_eq_getElem hi'] at hid
  simp [hid, hi, hi']

theorem identifierOfWord_frameWord {f : CanFrame} (h : f.identifier.toNat < 2 ^ 29) :
    identifierOfWord (frameWord f) = f.identifier := by
  rw [identifierOfWord, frameWord, flagWord]
  have hmask : ∀ i, (hi : i < 32) → (0x1FFFFFFF#32)[i] = decide (i < 29) := by decide
  ext i hi
  by_cases h29 : i < 29
  · simp [h29, hmask]
  · have hid := getLsbD_of_legal h (Nat.le_of_not_lt h29)
    rw [BitVec.getLsbD_eq_getElem hi] at hid
    simp [h29, hid, hmask]

section

variable (o : ByteOrder) (f : CanFrame)

/-- The buffer before the payload is written. -/
def frameHead : Buffer :=
  Buffer.memWrite o (Buffer.memWrite o (Buffer.zeros Config.frameSize) 0 4 (frameWord f).toNat) 4 1 f.payloadLen.toNat

theorem frameBytes_eq_overwrite : frameBytes o f = Buffer.overwrite (frameHead o f) 8 f.payload := rfl

theorem length_frameHead : (frameHead o f).length = 16 := by
  have hzeros : (Buffer.zeros Config.frameSize).length = 16 := rfl
  have hword := Buffer.length_memWrite (o := o) (off := 0) (n := 4) (v := (frameWord f).toNat) (by rw [hzeros]; decide)
  rw [frameHead, Buffer.length_memWrite (by omega), hword, hzeros]

theorem length_frameBytes : (frameBytes o f).length = 16 := by
  have hlen := payload_length f
  have hhead := length_frameHead o f
  rw [frameBytes_eq_overwrite, Buffer.length_overwrite _ _ _ (by omega), hhead]

theorem memRead_frameBytes_word : Buffer.memRead o (frameBytes o f) 0 4 = (frameWord f).toNat := by
  have hhead := length_frameHead o f
  rw [frameBytes_eq_overwrite, Buffer.memRead_overwrite_of_outside (by omega) (by omega), frameHead,
    Buffer.memRead_memWrite_of_outside _ (by omega), Buffer.memRead_memWrite (by decide) (frameWord f).isLt]
  rw [Buffer.length_memWrite (by decide)]
  decide

theorem memRead_frameBytes_length : Buffer.memRead o (frameBytes o f) 4 1 = f.payloadLen.toNat := by
  have hhead := length_frameHead o f
  rw [frameBytes_eq_overwrite, Buffer.memRead_overwrite_of_outside (by omega) (by omega), frameHead,
    Buffer.memRead_memWrite _ f.payloadLen.isLt]
  rw [Buffer.length_memWrite (by decide)]
  decide

theorem byteAt_frameBytes_payload {i : Nat} (h : i < f.payload.length) :
    Buffer.byteAt (frameBytes o f) (8 + i) = f.payload[i] := by
  have hhead := length_frameHead o f
  have hslice := Buffer.slice_overwrite (frameHead o f) 8 f.payload (by omega)
  rw [← frameBytes_eq_overwrite] at hslice
  rw [Buffer.byteAt, ← Buffer.getD_slice _ 8 h, hslice, List.getD_eq_getElem _ _ h]

end

end Sys2Proof.Laws.Wire

namespace Sys2Proof.Machine

open Sys2Proof.Safety Sys2Proof.Laws.Wire

/-- Settles O13: the three fields are read where they were written, in either order. -/
theorem frameRoundTripInEitherByteOrder : Obligations.FrameRoundTripInEitherByteOrder := by
  intro o f hvalid
  obtain ⟨hid, hlen⟩ := CanFrame.valid_iff.1 hvalid
  have hcount : min f.payloadLen.toNat Config.payloadMax = f.payloadLen.toNat := Nat.min_eq_left hlen
  refine ⟨length_frameBytes o f, ?_⟩
  simp only [frameFields, memRead_frameBytes_word, memRead_frameBytes_length, hcount, BitVec.ofNat_toNat,
    BitVec.setWidth_eq, identifierOfWord_frameWord hid, flagsOfWord_frameWord hid]
  simp only [CanFrame.norm, CanFrame.mk.injEq, true_and]
  congr 1
  funext i
  split
  · next hi =>
    have hdata : i.val < f.payload.length := by rw [payload_length]; omega
    rw [byteAt_frameBytes_payload o f hdata, payload_getElem]
    rfl
  · rfl

/-- What comes back is the normal form in all that FRAME.EQ compares. -/
theorem sameFrame_roundTrip_iff {f : CanFrame} (h : f.valid = true) (o : ByteOrder) (g : CanFrame) :
    SameFrame (frameFields o (frameBytes o f)) g ↔ SameFrame f.norm g := by
  obtain ⟨-, hback⟩ := frameRoundTripInEitherByteOrder o f h
  rw [hback]
  simp only [SameFrame]
  refine and_congr_right fun _ => and_congr_right fun _ => and_congr_right fun _ => forall₂_congr fun i hi => ?_
  have hi' : i.val < f.payloadLen.toNat := hi
  simp [hi', CanFrame.norm]

/-- FRAME.ENC of a valid frame. -/
theorem exec_frameEnc_ok (s : State) (h : s.operands.frame.payloadLen.toNat ≤ 8) :
    exec .frameEnc s =
      .next (s.deliver (.ok (.frameEnc (frameBytes .little s.operands.frame) (mustForce s.operands.frame)))) := by
  rw [(frameEncWritesTheWireFrame s).1 h, frameBytes_eq_wireFrame]

theorem exec_frameDec_ok (s : State) (h : s.operands.buf.length = 16) :
    exec .frameDec s = .next (s.deliver (.ok (.frameDec (frameFields .little s.operands.buf)))) := by
  rw [(frameDecReadsTheFields s).1 h, frameFields_eq_readFrame h]

theorem exec_frameEq (s : State) :
    exec .frameEq s = .next (s.deliver (.ok (.frameEq (frameEqual s.operands.frameA s.operands.frameB)))) :=
  exec_eq_deliver_iff.2 ⟨rfl, rfl⟩

/-- Settles O11: the frame that comes back equals what its normal form equals. -/
theorem frameRoundTripGivesTheNormalForm : Obligations.FrameRoundTripGivesTheNormalForm := by
  intro s o hvalid
  have hequal : ∀ g, frameEqual (frameFields .little (frameBytes .little o.frame)) g = true ↔ SameFrame o.frame.norm g :=
    fun g => (frameEqual_iff_sameFrame _ _).trans (sameFrame_roundTrip_iff hvalid _ g)
  refine ⟨_, _, exec_frameEnc_ok (s.withOperands o) (CanFrame.valid_iff.1 hvalid).2,
    exec_frameDec_ok _ (length_frameBytes _ _), ?_, ?_⟩
  · have hnorm := (hequal o.frame.norm).2 ⟨rfl, rfl, rfl, fun _ _ => rfl⟩
    exact (exec_frameEq _).trans (by simp [hnorm])
  · have hself : frameEqual (frameFields .little (frameBytes .little o.frame)) o.frame = !mustForce o.frame := by
      rw [Bool.eq_iff_iff, hequal, sameFrame_norm_iff, Bool.not_eq_true']
    exact (exec_frameEq _).trans (by simp [hself])

end Sys2Proof.Machine
end

section
/-! The frame round trip from the buffer's side: which buffers are the encoding of what they decode to (40_frame rule R74,
30_encoding rule R64). -/

namespace Sys2Proof.Laws.Wire

open Sys2Proof.Safety

/-- The bytes of the field at an offset are the buffer's (20_memory rule R33). -/
theorem le32_word32At (buf : Buffer) (off : Nat) :
    le32 (word32At buf off) =
      [buf.getD off 0#8, buf.getD (off + 1) 0#8, buf.getD (off + 2) 0#8, buf.getD (off + 3) 0#8] := by
  rw [← ofNatLE_four]
  exact ofNatLE_toNat_append _ _ _ _

theorem le32_injective {v w : Word32} (h : le32 v = le32 w) : v = w := by
  have hread := fun u => word32At_append_le32 [] u []
  rw [← hread v, ← hread w, h]

/-- The layout of rule R46 on any sixteen bytes: identifier word, length byte, padding, payload area. -/
theorem eq_frame_layout {buf : Buffer} (h : buf.length = 16) :
    buf = le32 (word32At buf 0) ++ [buf.getD 4 0#8, buf.getD 5 0#8, buf.getD 6 0#8, buf.getD 7 0#8] ++
      List.ofFn fun i : Fin 8 => buf.getD (8 + i.val) 0#8 := by
  have hword : buf.take 4 = le32 (word32At buf 0) := by
    rw [le32_word32At]
    exact slice_four buf 0 (by omega)
  have hmiddle : (buf.drop 4).take 4 = [buf.getD 4 0#8, buf.getD 5 0#8, buf.getD 6 0#8, buf.getD 7 0#8] :=
    slice_four buf 4 (by omega)
  have harea : buf.drop 8 = List.ofFn fun i : Fin 8 => buf.getD (8 + i.val) 0#8 := by
    refine List.ext_getElem (by simp [h]) fun i hi _ => ?_
    rw [List.length_drop] at hi
    rw [List.getElem_drop, List.getElem_ofFn, List.getD_eq_getElem _ _ (by omega)]
  have hrest : buf.drop 4 = (buf.drop 4).take 4 ++ buf.drop 8 := by
    rw [← List.drop_drop (i := 4) (j := 4), List.take_append_drop]
  calc buf = buf.take 4 ++ buf.drop 4 := (List.take_append_drop 4 buf).symm
    _ = buf.take 4 ++ ((buf.drop 4).take 4 ++ buf.drop 8) := by rw [← hrest]
    _ = _ := by rw [hword, hmiddle, harea, List.append_assoc]

/-- An encoder's sixteen bytes against any others, field by field. -/
theorem frame_layout_eq_iff {buf : Buffer} (h : buf.length = 16) (w : Word32) (len : Byte) (area : Fin 8 → Byte) :
    le32 w ++ [len, 0#8, 0#8, 0#8] ++ List.ofFn area = buf ↔
      w = word32At buf 0 ∧ len = buf.getD 4 0#8 ∧
        (buf.getD 5 0#8 = 0#8 ∧ buf.getD 6 0#8 = 0#8 ∧ buf.getD 7 0#8 = 0#8) ∧
        ∀ i : Fin 8, area i = buf.getD (8 + i.val) 0#8 := by
  have hlayout := eq_frame_layout h
  constructor
  · intro heq
    obtain ⟨hhead, harea⟩ := List.append_inj (heq.trans hlayout) rfl
    obtain ⟨hword, hmiddle⟩ := List.append_inj hhead rfl
    simp only [List.cons.injEq] at hmiddle
    obtain ⟨hlen, h5, h6, h7, -⟩ := hmiddle
    exact ⟨le32_injective hword, hlen, ⟨h5.symm, h6.symm, h7.symm⟩, congrFun (List.ofFn_injective harea)⟩
  · rintro ⟨hword, hlen, ⟨h5, h6, h7⟩, harea⟩
    rw [h5, h6, h7, ← hword, ← hlen, ← funext harea] at hlayout
    exact hlayout.symm

/-- Identifier and flags, decoded and put together, are the word they were decoded from (rule R47). -/
theorem identifier_or_flags (w : Word32) :
    (w &&& 0x1FFFFFFF#32) ||| ((w.extractLsb' 29 3).setWidth 32 <<< 29) = w := by
  have hmask : ∀ i, (hi : i < 32) → (0x1FFFFFFF#32)[i] = decide (i < 29) := by decide
  ext i hi
  by_cases h29 : i < 29
  · simp [h29, hmask]
  · obtain ⟨j, rfl⟩ := Nat.exists_eq_add_of_le (Nat.le_of_not_lt h29)
    have hj : j < 3 := by omega
    simp [hmask, hj, hi]

/-- Setting bit 31 changes nothing exactly where it stands. -/
theorem or_bit31_eq_self_iff (w : Word32) : w ||| 0x80000000#32 = w ↔ w.getLsbD 31 = true := by
  have hbit : ∀ i, (hi : i < 32) → (0x80000000#32)[i] = decide (i = 31) := by decide
  constructor
  · intro h
    rw [← h, BitVec.getLsbD_or]
    exact Bool.or_true _
  · intro h
    ext i hi
    rw [BitVec.getElem_or, hbit i hi]
    by_cases h31 : i = 31
    · subst h31
      rw [BitVec.getLsbD_eq_getElem hi] at h
      simp [h]
    · simp [h31]

/-- What the encoder would force in a decoded frame (rules R68, R73). -/
theorem mustForce_readFrame (buf : Buffer) :
    mustForce (readFrame buf) =
      (decide (0x7FF < (word32At buf 0 &&& 0x1FFFFFFF#32).toNat) && !(word32At buf 0).getLsbD 31) := by
  have heff : ((word32At buf 0).extractLsb' 29 3).getLsbD 2 = (word32At buf 0).getLsbD 31 := by
    rw [BitVec.getLsbD_extractLsb']
    rfl
  rw [← heff]
  rfl

/-- The encoder's word is the decoder's but where it must set EFF. -/
theorem encoded_word_eq_iff (buf : Buffer) :
    (readFrame buf).identifier ||| ((readFrame buf).flags.setWidth 32 <<< 29) |||
        (if mustForce (readFrame buf) then 0x80000000#32 else 0#32) = word32At buf 0 ↔
      (0x7FF < (word32At buf 0 &&& 0x1FFFFFFF#32).toNat → (word32At buf 0).getLsbD 31 = true) := by
  have hsplit : (readFrame buf).identifier ||| ((readFrame buf).flags.setWidth 32 <<< 29) = word32At buf 0 :=
    identifier_or_flags _
  rw [hsplit, mustForce_readFrame]
  have hiff := or_bit31_eq_self_iff (word32At buf 0)
  by_cases hid : 0x7FF < (word32At buf 0 &&& 0x1FFFFFFF#32).toNat
  · rw [decide_eq_true hid, Bool.true_and, imp_iff_right hid]
    cases heff : (word32At buf 0).getLsbD 31
    · rw [heff] at hiff
      exact hiff
    · exact iff_of_true BitVec.or_zero rfl
  · rw [decide_eq_false hid, Bool.false_and]
    exact iff_of_true BitVec.or_zero fun h => absurd h hid

theorem toNat_readFrame_payloadLen (buf : Buffer) :
    (readFrame buf).payloadLen.toNat = min (buf.getD 4 0#8).toNat 8 := by
  rw [readFrame, BitVec.toNat_ofNat]
  omega

theorem readFrame_payloadLen_eq_iff (buf : Buffer) :
    (readFrame buf).payloadLen = buf.getD 4 0#8 ↔ (buf.getD 4 0#8).toNat ≤ 8 := by
  rw [← BitVec.toNat_inj, toNat_readFrame_payloadLen]
  omega

/-- The payload area comes back exactly when it is zero from the decoded length on. -/
theorem encoded_area_eq_iff (buf : Buffer) :
    (∀ i : Fin 8, (if i.val < (readFrame buf).payloadLen.toNat then (readFrame buf).payloadData[i] else 0#8) =
        buf.getD (8 + i.val) 0#8) ↔
      ∀ k, 8 + (readFrame buf).payloadLen.toNat ≤ k → k < 16 → buf.getD k 0#8 = 0#8 := by
  have hdata : ∀ i : Fin 8, i.val < (readFrame buf).payloadLen.toNat →
      (readFrame buf).payloadData[i] = buf.getD (8 + i.val) 0#8 := fun i hi => by
    rw [toNat_readFrame_payloadLen] at hi
    simp only [readFrame, Fin.getElem_fin, Vector.getElem_ofFn]
    exact if_pos hi
  constructor
  · intro h k hk hk16
    obtain ⟨i, rfl⟩ := Nat.exists_eq_add_of_le (show 8 ≤ k by omega)
    rw [← h ⟨i, by omega⟩]
    exact if_neg (by simp only; omega)
  · intro h i
    split
    · next hi => exact hdata i hi
    · next hi => exact (h _ (by omega) (by omega)).symm

/-- FRAME.ENC after FRAME.DEC gives the buffer back exactly when it is canonical (rule R74). -/
theorem wireFrame_readFrame_eq_iff {buf : Buffer} (h : buf.length = 16) :
    wireFrame (readFrame buf) = buf ↔
      (buf.getD 5 0 = 0 ∧ buf.getD 6 0 = 0 ∧ buf.getD 7 0 = 0 ∧ (buf.getD 4 0).toNat ≤ 8 ∧
        (∀ k, 8 + (buf.getD 4 0).toNat ≤ k → k < 16 → buf.getD k 0 = 0) ∧
        (0x7FF < (word32At buf 0 &&& 0x1FFFFFFF).toNat → (word32At buf 0).getLsbD 31 = true)) := by
  rw [wireFrame, frame_layout_eq_iff h, encoded_word_eq_iff, readFrame_payloadLen_eq_iff, encoded_area_eq_iff]
  constructor
  · rintro ⟨hword, hlen, ⟨h5, h6, h7⟩, harea⟩
    rw [toNat_readFrame_payloadLen, Nat.min_eq_left hlen] at harea
    exact ⟨h5, h6, h7, hlen, harea, hword⟩
  · rintro ⟨h5, h6, h7, hlen, harea, hword⟩
    have hshort : (buf.getD 4 0#8).toNat ≤ 8 := hlen
    refine ⟨hword, hlen, ⟨h5, h6, h7⟩, ?_⟩
    rw [toNat_readFrame_payloadLen, Nat.min_eq_left hshort]
    exact harea

end Sys2Proof.Laws.Wire

namespace Sys2Proof.Machine

open Sys2Proof.Safety Sys2Proof.Laws.Wire

/-- Settles O12: a decoded payload is never too long to encode, and each field comes back under its own condition. -/
theorem frameReencodingGivesTheBufferBackExactlyWhenCanonical :
    Obligations.FrameReencodingGivesTheBufferBackExactlyWhenCanonical := by
  intro s o h
  refine ⟨_, _, _, (frameDecReadsTheFields (s.withOperands o)).1 h, (frameEncWritesTheWireFrame _).1 ?_,
    wireFrame_readFrame_eq_iff h⟩
  exact (toNat_readFrame_payloadLen o.buf).trans_le (Nat.min_le_right _ _)

end Sys2Proof.Machine
end

section
/-! The BCM round trip: the header's words and the frames' chunks of an encoded message, read back (42_bcm rules R93, R97, R100). -/

namespace Sys2Proof.Laws.Wire

open Sys2Proof.Machine Sys2Proof.Safety

theorem word32At_append_right (pre post : Buffer) (off : Nat) :
    word32At (pre ++ post) (pre.length + off) = word32At post off := by
  have hbyte : ∀ k, (pre ++ post).getD (pre.length + k) 0#8 = post.getD k 0#8 := fun k => by
    rw [List.getD_append_right _ _ _ _ (Nat.le_add_right _ _), Nat.add_sub_cancel_left]
  simp only [word32At, Nat.add_assoc, hbyte]

/-- In a sequence of words, the one at index `i` stands at offset `4 * i`. -/
theorem word32At_flatten_le32 (ws : List Word32) (post : Buffer) {i : Nat} (h : i < ws.length) :
    word32At ((ws.map le32).flatten ++ post) (4 * i) = ws[i] := by
  induction ws generalizing i with
  | nil => exact absurd h (Nat.not_lt_zero i)
  | cons w ws ih =>
    rw [List.map_cons, List.flatten_cons, List.append_assoc]
    cases i with
    | zero => exact word32At_append_le32 [] w _
    | succ i =>
      rw [Nat.mul_succ, Nat.add_comm]
      exact (word32At_append_right (le32 w) _ _).trans (ih (Nat.lt_of_succ_lt_succ h))

/-- Among chunks of `n` bytes one after another, the one at index `i` starts at `n * i`. -/
theorem take_drop_flatten {chunks : List Buffer} {n : Nat} (hlen : ∀ c ∈ chunks, c.length = n) {i : Nat}
    (h : i < chunks.length) : (chunks.flatten.drop (n * i)).take n = chunks[i] := by
  induction chunks generalizing i with
  | nil => exact absurd h (Nat.not_lt_zero i)
  | cons c cs ih =>
    obtain ⟨rfl, hrest⟩ := List.forall_mem_cons.1 hlen
    rw [List.flatten_cons]
    cases i with
    | zero => exact List.take_left ..
    | succ i =>
      rw [Nat.mul_succ, Nat.add_comm, ← List.drop_drop, List.drop_left]
      exact ih hrest (Nat.lt_of_succ_lt_succ h)

/-- The ten words of the header of rule R51. -/
def headerWords (m : BcmMessage) (pair1 pair2 : SInt × SInt) : List Word32 :=
  [m.opcode, m.flags, m.repeatCount, pair1.1, pair1.2, pair2.1, pair2.2, m.identifier, BitVec.ofNat 32 m.frames.length, 0#32]

theorem wireHeader_eq (m : BcmMessage) (pair1 pair2 : SInt × SInt) :
    wireHeader m pair1 pair2 = ((headerWords m pair1 pair2).map le32).flatten := rfl

theorem length_wireHeader (m : BcmMessage) (pair1 pair2 : SInt × SInt) : (wireHeader m pair1 pair2).length = 40 := rfl

theorem length_wireFrame (f : CanFrame) : (wireFrame f).length = 16 := by
  rw [← frameBytes_eq_wireFrame, length_frameBytes]

section

variable {m : BcmMessage} (h : m.frames.length < 2 ^ 32)

include h

theorem length_bcmBytes : (bcmBytes Config.hardware m).length = 40 + 16 * m.frames.length := by
  rw [bcmBytes_eq_wire m h, List.length_append, length_wireHeader, List.length_flatten, List.map_map]
  simp [Function.comp_def, length_wireFrame, Nat.mul_comm]

/-- The words of an encoded message's header. -/
theorem word32At_bcmBytes {i : Nat} (hi : i < 10) :
    word32At (bcmBytes Config.hardware m) (4 * i) =
      (headerWords m (m.wirePair Binary64.arith .first) (m.wirePair Binary64.arith .second))[i]'hi := by
  rw [bcmBytes_eq_wire m h, wireHeader_eq]
  exact word32At_flatten_le32 _ _ hi

/-- The chunks of an encoded message are its encoded frames, in order. -/
theorem chunk_bcmBytes {i : Nat} (hi : i < m.frames.length) :
    ((bcmBytes Config.hardware m).drop (40 + 16 * i)).take 16 = wireFrame m.frames[i] := by
  have hlen : ∀ c ∈ m.frames.map wireFrame, c.length = 16 := List.forall_mem_map.2 fun f _ => length_wireFrame f
  have hhead := length_wireHeader m (m.wirePair Binary64.arith .first) (m.wirePair Binary64.arith .second)
  rw [bcmBytes_eq_wire m h, ← List.drop_drop, ← hhead, List.drop_left,
    take_drop_flatten hlen (by rwa [List.length_map]), List.getElem_map]

/-- The count field declares the number of frames. -/
theorem length_bcmBytes_eq_declared :
    (bcmBytes Config.hardware m).length = 40 + 16 * (word32At (bcmBytes Config.hardware m) 32).toNat := by
  have hcount : word32At (bcmBytes Config.hardware m) 32 = BitVec.ofNat 32 m.frames.length :=
    word32At_bcmBytes h (i := 8) (by decide)
  rw [hcount, BitVec.toNat_ofNat, Nat.mod_eq_of_lt h, length_bcmBytes h]

/-- The message that comes back (rules R93, R97). -/
theorem bcmFields_bcmBytes :
    bcmFields Config.hardware (bcmBytes Config.hardware m) =
      { m with
        interval1 := Interval.fromWire Binary64.arith (m.wirePair Binary64.arith .first).1 (m.wirePair Binary64.arith .first).2
        interval2 := Interval.fromWire Binary64.arith (m.wirePair Binary64.arith .second).1 (m.wirePair Binary64.arith .second).2
        frames := m.frames.map fun f => readFrame (wireFrame f) } := by
  have hframes : ((List.range (word32At (bcmBytes Config.hardware m) 32).toNat).map fun i =>
      readFrame (((bcmBytes Config.hardware m).drop (40 + 16 * i)).take 16)) =
        m.frames.map fun f => readFrame (wireFrame f) := by
    have hcount : (word32At (bcmBytes Config.hardware m) 32).toNat = m.frames.length := by
      have := length_bcmBytes_eq_declared h
      rw [length_bcmBytes h] at this
      omega
    rw [hcount]
    refine List.ext_getElem (by simp) fun i hi _ => ?_
    rw [List.length_map, List.length_range] at hi
    rw [List.getElem_map, List.getElem_range, chunk_bcmBytes h hi, List.getElem_map]
  have hword := fun i hi => word32At_bcmBytes h (i := i) hi
  rw [bcmFields_eq (length_bcmBytes_eq_declared h), hframes]
  simp only [BcmMessage.mk.injEq, and_true]
  exact ⟨hword 0 (by decide), hword 1 (by decide), hword 2 (by decide),
    congrArg₂ (Interval.fromWire Binary64.arith) (hword 3 (by decide)) (hword 4 (by decide)),
    congrArg₂ (Interval.fromWire Binary64.arith) (hword 5 (by decide)) (hword 6 (by decide)), hword 7 (by decide)⟩

end

theorem readFrame_wireFrame (f : CanFrame) : readFrame (wireFrame f) = frameFields .little (frameBytes .little f) := by
  rw [frameFields_eq_readFrame (length_frameBytes _ _), frameBytes_eq_wireFrame]

theorem sameFrame_readFrame_wireFrame_iff {f : CanFrame} (h : f.valid = true) (g : CanFrame) :
    SameFrame (readFrame (wireFrame f)) g ↔ SameFrame f.norm g := by
  rw [readFrame_wireFrame]
  exact sameFrame_roundTrip_iff h _ g

/-- Of the valid frames, the normalized ones are those that nothing is forced in (10_state rule R17). -/
theorem normalized_iff_of_valid {f : CanFrame} (h : f.valid = true) : f.normalized = true ↔ mustForce f = false := by
  have hid : f.identifier.ule Config.sffMax = !decide (0x7FF < f.identifier.toNat) := by
    rw [BitVec.ule, ← decide_not]
    exact decide_eq_decide.2 Nat.not_lt.symm
  rw [CanFrame.normalized, h, Bool.true_and, hid, mustForce, Bool.and_eq_false_iff, Bool.or_eq_true, Bool.not_eq_true',
    Bool.not_eq_false']
  rfl

end Sys2Proof.Laws.Wire

namespace Sys2Proof.Machine

open Sys2Proof.Safety Sys2Proof.Laws.Wire

/-- The payload test of BCM.ENC (rule R105). -/
theorem any_tooLong_iff {fs : List CanFrame} :
    fs.any CanFrame.tooLong = true ↔ ∃ f ∈ fs, 8 < f.payloadLen.toNat := by
  simp [CanFrame.tooLong, Config.payloadMax]

/-- What validity (rule R91) gives on this hardware, but for the opcode. -/
theorem valid_hardware_parts {m : BcmMessage} (h : m.valid Config.hardware = true) :
    (∀ slot, m.wirePair Binary64.arith slot = Interval.toWire Binary64.arith (m.interval slot)) ∧
      (∀ f ∈ m.frames, f.valid = true) ∧ m.frames.length < 2 ^ 32 := by
  simp only [BcmMessage.valid, BcmMessage.intervalsInDomain, hardware_arith, hardware_admits, Bool.and_eq_true,
    and_true] at h
  obtain ⟨⟨⟨-, hfirst, hsecond⟩, hframes⟩, hcount⟩ := h
  refine ⟨fun slot => ?_, List.all_eq_true.1 hframes, of_decide_eq_true hcount⟩
  rw [BcmMessage.wirePair, Interval.toWireOr]
  cases slot with
  | first => exact if_pos hfirst
  | second => exact if_pos hsecond

/-- What comes back of a valid message (rule R100). -/
theorem bcmFields_bcmBytes_of_valid {m : BcmMessage} (h : m.valid Config.hardware = true) :
    bcmFields Config.hardware (bcmBytes Config.hardware m) =
      { m with
        interval1 := Interval.fromWire Binary64.arith (Interval.toWire Binary64.arith m.interval1).1
          (Interval.toWire Binary64.arith m.interval1).2
        interval2 := Interval.fromWire Binary64.arith (Interval.toWire Binary64.arith m.interval2).1
          (Interval.toWire Binary64.arith m.interval2).2
        frames := m.frames.map fun f => readFrame (wireFrame f) } := by
  obtain ⟨hpair, -, hcount⟩ := valid_hardware_parts h
  rw [bcmFields_bcmBytes hcount, hpair, hpair]
  rfl

/-- The frames that come back equal what the normal forms equal. -/
theorem forall₂_sameFrame_decoded_iff {fs : List CanFrame} (h : ∀ f ∈ fs, f.valid = true) (g : CanFrame → CanFrame) :
    List.Forall₂ SameFrame (fs.map fun f => readFrame (wireFrame f)) (fs.map g) ↔ ∀ f ∈ fs, SameFrame f.norm (g f) := by
  rw [List.forall₂_map_left_iff, List.forall₂_map_right_iff, List.forall₂_same]
  exact forall₂_congr fun f hf => sameFrame_readFrame_wireFrame_iff (h f hf) _

/-- They equal the originals exactly when these are normalized. -/
theorem decoded_equal_iff_normalized {fs : List CanFrame} (h : ∀ f ∈ fs, f.valid = true) :
    List.Forall₂ SameFrame (fs.map fun f => readFrame (wireFrame f)) fs ↔ ∀ f ∈ fs, f.normalized = true := by
  have hself := forall₂_sameFrame_decoded_iff h id
  rw [List.map_id] at hself
  exact hself.trans (forall₂_congr fun f hf => (sameFrame_norm_iff f).trans (normalized_iff_of_valid (h f hf)).symm)

/-- Settles O27: the encoder's words and chunks are read back, and what is left of the comparison are the frames' flags and the two
intervals. -/
theorem bcmRoundTrip : Obligations.BcmRoundTrip := by
  intro s o hvalid
  obtain ⟨-, hframes, hcount⟩ := valid_hardware_parts hvalid
  have hlen : ∀ f ∈ o.msg.frames, f.payloadLen.toNat ≤ 8 := fun f hf => (CanFrame.valid_iff.1 (hframes f hf)).2
  refine ⟨_, _, bcmFields Config.hardware (bcmBytes Config.hardware o.msg), exec_bcmEnc_ok (s.withOperands o) hlen hcount,
    exec_bcmDec_ok _ (length_bcmBytes_eq_declared hcount), ?_⟩
  rw [bcmFields_bcmBytes_of_valid hvalid]
  refine ⟨rfl, rfl, rfl, rfl, (forall₂_sameFrame_decoded_iff hframes _).2 fun f _ => ⟨rfl, rfl, rfl, fun _ _ => rfl⟩,
    rfl, rfl, _, exec_eq_deliver_iff.2 ⟨rfl, rfl⟩, ?_⟩
  rw [bcmEqual_iff, State.withOperands_operands]
  simp only [decoded_equal_iff_normalized hframes, true_and]
  exact ⟨fun ⟨h1, h2, hall⟩ => ⟨hall, h1, h2⟩, fun ⟨hall, h1, h2⟩ => ⟨h1, h2, hall⟩⟩

/-- Settles O24: no payload raises the error, and the count does not fit. -/
theorem bcmEncRefusesTooManyFrames : Obligations.BcmEncRefusesTooManyFrames := by
  intro s hlen hcount
  have hshort : ¬ s.operands.msg.frames.any CanFrame.tooLong = true :=
    any_tooLong_iff.not.2 fun ⟨f, hf, hlong⟩ => (hlen f hf).not_gt hlong
  have hfits : ¬ s.operands.msg.countFits = true := by
    simpa [BcmMessage.countFits] using hcount
  rw [exec_operation .bcmEnc rfl, resultOf, if_neg hshort, if_neg hfits]

end Sys2Proof.Machine
end

section
/-! The decoder: it takes exactly the table's words, each to its row (30_encoding rules R44, R56 to R58). -/

namespace Sys2Proof

open Sys2Proof.Machine

theorem decode_encode (i : Instr) : decode (encode i) = .ok i := by cases i <;> rfl

theorem wf_encode (i : Instr) : (encode i).wf = true := by cases i <;> rfl

/-- The op codes of rule R44, zero-extended. -/
theorem encode_decodeOp : ∀ op : BitVec 3, encode (decodeOp op) = ⟨.cmd, op.setWidth 32⟩ := by decide

theorem encode_of_decodeOpcode {w : Word32} {i : Instr} (h : decodeOpcode w = .ok i) : encode i = ⟨.bcmOpcode, w⟩ := by
  have hbits : w = BitVec.ofNat 32 w.toNat := by rw [BitVec.ofNat_toNat, BitVec.setWidth_eq]
  rw [decodeOpcode] at h
  split at h <;> cases h
  all_goals
    next hw => exact (congrArg (InstrWord.mk .bcmOpcode) (hbits.trans (congrArg _ hw))).symm

theorem encode_of_decodeBcmFlag {w : Word32} {i : Instr} (h : decodeBcmFlag w = .ok i) : encode i = ⟨.bcmFlag, w⟩ := by
  simp only [decodeBcmFlag] at h
  split_ifs at h with h1 h2 h3 <;> cases h <;> subst w <;> rfl

theorem encode_of_decodeCanFlag {w : Word32} {i : Instr} (h : decodeCanFlag w = .ok i) : encode i = ⟨.canFlag, w⟩ := by
  simp only [decodeCanFlag] at h
  split_ifs at h with h1 h2 h3 <;> cases h <;> subst w <;> rfl

/-- A word decodes to a row exactly when it is the row's word. -/
theorem decode_eq_ok_iff {w : InstrWord} {i : Instr} : decode w = .ok i ↔ w = encode i := by
  refine ⟨fun h => ?_, fun h => h ▸ decode_encode i⟩
  obtain ⟨fmt, bits⟩ := w
  cases fmt with
  | cmd =>
    simp only [decode] at h
    split at h
    · next hbits =>
      cases h
      rw [encode_decodeOp, InstrWord.mk.injEq]
      exact ⟨rfl, BitVec.eq_of_toNat_eq (by rw [BitVec.toNat_setWidth, BitVec.toNat_setWidth]; omega)⟩
    · cases h
  | bcmOpcode => exact (encode_of_decodeOpcode h).symm
  | bcmFlag => exact (encode_of_decodeBcmFlag h).symm
  | canFlag => exact (encode_of_decodeCanFlag h).symm

/-- A well-formed word is some row's. -/
theorem exists_decode_of_wf {w : InstrWord} (h : w.wf = true) : ∃ i, decode w = .ok i := by
  obtain ⟨fmt, bits⟩ := w
  cases fmt with
  | cmd => exact ⟨_, if_pos (of_decide_eq_true h)⟩
  | bcmOpcode =>
    simp only [InstrWord.wf, bcmOpcodes, List.contains_iff_mem, List.mem_cons, List.not_mem_nil, or_false] at h
    rcases h with rfl | rfl | rfl | rfl | rfl | rfl | rfl | rfl | rfl <;> exact ⟨_, rfl⟩
  | bcmFlag =>
    simp only [InstrWord.wf, bcmFlagMasks, List.contains_iff_mem, List.mem_cons, List.not_mem_nil, or_false] at h
    rcases h with rfl | rfl | rfl <;> exact ⟨_, rfl⟩
  | canFlag =>
    simp only [InstrWord.wf, canFlagMasks, List.contains_iff_mem, List.mem_cons, List.not_mem_nil, or_false] at h
    rcases h with rfl | rfl | rfl <;> exact ⟨_, rfl⟩

/-- Settles O2: the eight codes are evaluated, and a wider word fails the decoder's width test. -/
theorem opCodesSelectTheEightOperations : Obligations.OpCodesSelectTheEightOperations :=
  ⟨rfl, rfl, rfl, rfl, rfl, rfl, rfl, rfl, fun _ h => if_neg (Nat.not_lt.2 h)⟩

/-- Settles O3: a row's word determines the row within its format. -/
theorem constantTablesNameTheirWords : Obligations.ConstantTablesNameTheirWords := by
  refine ⟨fun w i => decode_eq_ok_iff.trans ?_, fun w i => decode_eq_ok_iff.trans ?_, fun w i => decode_eq_ok_iff.trans ?_⟩
  all_goals cases i <;> simp [encode]

/-- Settles O4, by `decode_eq_ok_iff`. -/
theorem decodeAndEncodeAgree : Obligations.DecodeAndEncodeAgree := by
  refine ⟨decode_encode, fun _ _ => decode_eq_ok_iff.1, fun w => ⟨exists_decode_of_wf, ?_⟩⟩
  rintro ⟨i, hi⟩
  rw [decode_eq_ok_iff.1 hi, wf_encode]

end Sys2Proof
end

section
/-! Steps and runs: what one step takes and delivers, and that a run serves its requests one after another (20_memory rules R29, R40,
R41; 70_reset rules R119, R120, R124). -/

namespace Sys2Proof.Machine

open Sys2Proof.Safety

theorem isOperation_iff {i : Instr} : isOperation i = true ↔ (encode i).fmt = .cmd := beq_iff_eq

/-- Settles O1: reset leaves both sequences empty, and a step without a request idles. -/
theorem resetLeavesNothingPending : Obligations.ResetLeavesNothingPending := ⟨rfl, rfl, fun _ => step_idle⟩

/-- Settles O5: the state in which the request is performed is the one of `State.accept`. -/
theorem stepPerformsTheDecodedRequest : Obligations.StepPerformsTheDecodedRequest := fun _ _ _ _ => step_request

/-- No instruction takes a request, and each delivers nothing or its result. -/
theorem exec_next {i : Instr} {s t : State} (h : exec i s = .next t) :
    t.inputs = s.inputs ∧
      (t.results = s.results ∨ ∃ r, resultOf i s.operands = some r ∧ t.results = s.results ++ [r]) := by
  by_cases hop : (encode i).fmt = .cmd
  · obtain ⟨r, hr, rfl⟩ := exec_operation_next hop h
    exact ⟨State.deliver_inputs s r, .inr ⟨r, hr, State.deliver_results s r⟩⟩
  · refine ⟨?_, .inl (exec_data_results hop h)⟩
    obtain ⟨g, hg⟩ | ⟨g, hg⟩ := exec_data i hop s
    · rw [← Host.Outcome.next.inj (hg.symm.trans h), State.mapMsg_inputs]
    · rw [← Host.Outcome.next.inj (hg.symm.trans h), State.mapFrame_inputs]

/-- A step takes the oldest request, and delivers nothing or the result of an operation. -/
theorem step_next {s t : State} (h : step s = .next t) :
    t.inputs = s.inputs.tail ∧
      (t.results = s.results ∨ ∃ i o r, resultOf i o = some r ∧ t.results = s.results ++ [r]) := by
  cases hin : s.inputs with
  | nil =>
    obtain rfl := Host.Outcome.next.inj ((step_idle hin).symm.trans h)
    exact ⟨hin, .inl rfl⟩
  | cons inp rest =>
    cases hd : decode inp.word with
    | error reason => rw [step_unnamed hin hd] at h; cases h
    | ok i =>
      rw [step_request hin hd] at h
      obtain ⟨hinputs, hresults⟩ := exec_next h
      exact ⟨hinputs, hresults.imp id fun ⟨r, hr, happend⟩ => ⟨i, _, r, hr, happend⟩⟩

/-- Settles O6: `step_next` without the row. -/
theorem stepTakesOneRequestAndResultsOnlyGrow : Obligations.StepTakesOneRequestAndResultsOnlyGrow := by
  intro s t h
  obtain ⟨hinputs, hresults⟩ := step_next h
  exact ⟨hinputs, hresults.imp id fun ⟨_, _, r, _, happend⟩ => ⟨r, happend⟩⟩

/-- Settles O35: an operation that completes delivers on the state as it is. -/
theorem operationsChangeNothingButTheResults : Obligations.OperationsChangeNothingButTheResults := by
  intro i s t hop h
  obtain ⟨r, -, rfl⟩ := exec_operation_next (isOperation_iff.1 hop) h
  exact ⟨rfl, rfl, r, rfl⟩

/-- Settles O33: the encoders report `forced` of each frame, and no other output has the field. -/
theorem effForcedReportsEachForcedFrame : Obligations.EffForcedReportsEachForcedFrame := by
  intro i s out h
  have hr := exec_eq_deliver_iff_resultOf.1 h
  cases i with
  | frameEnc =>
    simp only [resultOf, Option.some.injEq] at hr
    split at hr <;> cases hr
    exact ⟨fun _ => rfl, nofun, fun hne => absurd rfl hne⟩
  | bcmEnc =>
    simp only [resultOf] at hr
    split_ifs at hr
    · cases hr
    · cases hr
      exact ⟨nofun, fun _ => rfl, fun _ hne => absurd rfl hne⟩
  | frameDec =>
    simp only [resultOf, Option.some.injEq] at hr
    split at hr <;> cases hr
    exact ⟨nofun, nofun, fun _ _ => rfl⟩
  | bcmDec =>
    simp only [resultOf, Option.some.injEq] at hr
    split at hr
    · cases hr
    · split at hr <;> cases hr
      exact ⟨nofun, nofun, fun _ _ => rfl⟩
  | ivalToWire | ivalFromWire | frameEq | bcmEq =>
    cases hr
    exact ⟨nofun, nofun, fun _ _ => rfl⟩
  | txSetup | txDelete | txRead | rxSetup | rxDelete | rxRead | rxStatus | rxTimeout | rxChanged
  | setTimer | startTimer | rxFilterId | errFlag | rtrFlag | effFlag => cases hr

/-- Performed alone after reset, an operation gives `resultOf` of its operand record. -/
theorem answer_eq_resultOf {i : Instr} (h : (encode i).fmt = .cmd) (o : Operands) : answer i o = resultOf i o := by
  rw [answer, exec_operation i h, State.withOperands_operands]
  cases resultOf i o <;> rfl

/-- An answerable request has a result. -/
theorem exists_resultOf_of_answerable {i : Instr} {o : Operands} (h : Answerable i o) : ∃ r, resultOf i o = some r := by
  obtain ⟨hop, hcount⟩ := h
  cases i with
  | bcmEnc =>
    by_cases hlong : o.msg.frames.any CanFrame.tooLong = true
    · exact ⟨_, if_pos hlong⟩
    · have hfits : o.msg.countFits = true := decide_eq_true ((hcount rfl).resolve_right (mt any_tooLong_iff.2 hlong))
      exact ⟨_, (if_neg hlong).trans (if_pos hfits)⟩
  | frameEnc | frameDec | ivalToWire | ivalFromWire | bcmDec | frameEq | bcmEq => exact ⟨_, rfl⟩
  | txSetup | txDelete | txRead | rxSetup | rxDelete | rxRead | rxStatus | rxTimeout | rxChanged
  | setTimer | startTimer | rxFilterId | errFlag | rtrFlag | effFlag => cases hop

/-- Settles O37: the result is `resultOf` of the operand record, in any state. -/
theorem everyAnswerableRequestIsAnswered : Obligations.EveryAnswerableRequestIsAnswered := by
  intro i s h
  obtain ⟨r, hr⟩ := exists_resultOf_of_answerable h
  exact ⟨r, (answer_eq_resultOf (isOperation_iff.1 h.1) _).trans hr, exec_eq_deliver_iff_resultOf.2 hr⟩

/-- A step on an answerable request delivers the request's answer. -/
theorem step_answerable {s : State} {p : Instr × Operands} {rest : List Input} (hin : s.inputs = request p :: rest)
    (h : Answerable p.1 p.2) :
    ∃ r, answer p.1 p.2 = some r ∧ step s = .next ((s.accept (request p) rest).deliver r) := by
  rw [step_request hin (decode_encode p.1)]
  exact everyAnswerableRequestIsAnswered p.1 (s.accept (request p) rest) h

theorem run_succ {M : Host.Core} {s t : M.State} (h : M.step s = .next t) (n : Nat) : M.run (n + 1) s = M.run n t := by
  simp only [Host.Core.run, h]

/-- Settles O38, by induction on the requests: the first step delivers the first answer and leaves a state with the others. -/
theorem runsDeliverOneResultPerRequestWhateverTheOrder : Obligations.RunsDeliverOneResultPerRequestWhateverTheOrder := by
  intro reqs
  induction reqs with
  | nil => exact fun s _ hin => ⟨s, rfl, hin, (List.append_nil _).symm⟩
  | cons p ps ih =>
    intro s hans hin
    obtain ⟨hp, hps⟩ := List.forall_mem_cons.1 hans
    obtain ⟨r, hr, hstep⟩ := step_answerable hin hp
    obtain ⟨t, hrun, hempty, hresults⟩ := ih ((s.accept (request p) (ps.map request)).deliver r) hps rfl
    refine ⟨t, ?_, hempty, ?_⟩
    · exact (run_succ (M := Sys2Proof.core) hstep ps.length).trans hrun
    · rw [hresults, State.deliver_results, State.accept_results, List.map_cons, hr]
      simp

end Sys2Proof.Machine
end

section
/-! Every result that an operation can deliver has its shape, so that a step keeps the shape of all (40_frame rule R70, 42_bcm rule
R94, 10_state rules R17, R19). -/

namespace Sys2Proof.Laws.Wire

open Sys2Proof.Machine Sys2Proof.Safety

/-- What FRAME.ENC writes of a payload of at most 8 bytes (rule R70). -/
theorem frameBytesShaped_wireFrame {f : CanFrame} (h : f.payloadLen.toNat ≤ 8) : FrameBytesShaped (wireFrame f) := by
  obtain ⟨-, hlen, ⟨h5, h6, h7⟩, harea⟩ := (frame_layout_eq_iff (length_wireFrame f) _ _ _).1 (wireFrame.eq_1 f).symm
  refine ⟨length_wireFrame f, h5, h6, h7, hlen ▸ h, fun k hk hk16 => ?_⟩
  rw [← hlen] at hk
  obtain ⟨i, rfl⟩ := Nat.exists_eq_add_of_le (show 8 ≤ k by omega)
  rw [← harea ⟨i, by omega⟩]
  exact if_neg (by simp only; omega)

/-- What FRAME.DEC reads of any bytes (rules R17, R19): the identifier is masked, and the data ends at the length. -/
theorem frameShaped_readFrame (buf : Buffer) : FrameShaped (readFrame buf) := by
  have hlen := toNat_readFrame_payloadLen buf
  refine ⟨CanFrame.valid_iff.2 ⟨?_, by omega⟩, fun i hi => ?_⟩
  · exact (BitVec.toNat_and ..).trans_lt (Nat.and_le_right.trans_lt (by decide))
  · rw [hlen] at hi
    simp only [readFrame, Fin.getElem_fin, Vector.getElem_ofFn]
    exact if_neg (Nat.not_lt.2 hi)

/-- What BCM.ENC writes (rule R94). -/
theorem resultShaped_bcmEnc {m : BcmMessage} (hlen : ∀ f ∈ m.frames, f.payloadLen.toNat ≤ 8)
    (hcount : m.frames.length < 2 ^ 32) :
    ResultShaped (.ok (.bcmEnc (bcmBytes Config.hardware m) (m.frames.map CanFrame.forced))) := by
  simp only [ResultShaped, List.length_map]
  refine ⟨length_bcmBytes hcount, word32At_bcmBytes hcount (i := 8) (by decide),
    word32At_bcmBytes hcount (i := 9) (by decide), fun k hk => ?_⟩
  rw [chunk_bcmBytes hcount hk]
  exact frameBytesShaped_wireFrame (hlen _ (List.getElem_mem hk))

/-- What BCM.DEC reads of a buffer that passes its checks. -/
theorem resultShaped_bcmDec {buf : Buffer} (h : buf.length = 40 + 16 * (word32At buf 32).toNat) :
    ResultShaped (.ok (.bcmDec (bcmFields Config.hardware buf))) := by
  rw [bcmFields_eq h]
  simp only [ResultShaped, List.length_map, List.length_range]
  exact ⟨(word32At buf 32).isLt, List.forall_mem_map.2 fun i _ => frameShaped_readFrame _⟩

end Sys2Proof.Laws.Wire

namespace Sys2Proof.Machine

open Sys2Proof.Safety Sys2Proof.Laws.Wire

/-- Over every row, the result has its shape. -/
theorem resultShaped_of_resultOf {i : Instr} {o : Operands} {r : Result} (h : resultOf i o = some r) : ResultShaped r := by
  cases i with
  | frameEnc =>
    simp only [resultOf, Option.some.injEq] at h
    subst h
    split
    · trivial
    · next hlen =>
      rw [frameBytes_eq_wireFrame]
      exact frameBytesShaped_wireFrame (Nat.le_of_not_lt (mt decide_eq_true hlen))
  | frameDec =>
    simp only [resultOf, Option.some.injEq] at h
    subst h
    split
    · trivial
    · next hlen =>
      rw [frameFields_eq_readFrame (not_not.1 hlen)]
      exact frameShaped_readFrame _
  | bcmEnc =>
    simp only [resultOf] at h
    split at h
    · cases h; trivial
    · next hlen =>
      split at h
      · next hcount =>
        cases h
        have hshort := mt any_tooLong_iff.2 hlen
        exact resultShaped_bcmEnc (fun f hf => Nat.le_of_not_lt fun hlong => hshort ⟨f, hf, hlong⟩)
          (of_decide_eq_true hcount)
      · cases h
  | bcmDec =>
    simp only [resultOf, Option.some.injEq] at h
    subst h
    split
    · trivial
    · next hheader =>
      split
      · next hmatch => exact resultShaped_bcmDec ((chunksMatch_iff (Nat.le_of_not_lt hheader)).1 hmatch)
      · trivial
  | ivalToWire | ivalFromWire | frameEq | bcmEq => cases h; trivial
  | txSetup | txDelete | txRead | rxSetup | rxDelete | rxRead | rxStatus | rxTimeout | rxChanged
  | setTimer | startTimer | rxFilterId | errFlag | rtrFlag | effFlag => cases h

theorem resultShaped_append {s t : State} {r : Result} (hs : ResultsShaped s) (hr : ResultShaped r)
    (ht : t.results = s.results ++ [r]) : ResultsShaped t := by
  intro r' hr'
  rw [ht, List.mem_append, List.mem_singleton] at hr'
  rcases hr' with h | rfl
  · exact hs r' h
  · exact hr

/-- Settles O39: what a step adds to the results is the result of an operation. -/
theorem stepKeepsDeliveredResultsShaped : Obligations.StepKeepsDeliveredResultsShaped := by
  intro s t hs hstep
  obtain ⟨-, hsame | ⟨i, o, r, hr, happend⟩⟩ := step_next hstep
  · intro r hr
    exact hs r (hsame ▸ hr)
  · exact resultShaped_append hs (resultShaped_of_resultOf hr) happend

/-- Settles O40: nothing has been delivered. -/
theorem resetResultsAreShaped : Obligations.ResetResultsAreShaped := fun _ hr => nomatch hr

end Sys2Proof.Machine
end

section
/-! The data rows: each puts its constant into its field of the operand record, and the encoders write that field whole (30_encoding
rules R56 to R58; log 3). -/

namespace Sys2Proof.Machine

open Sys2Proof.Safety Sys2Proof.Laws.Wire

/-- The rows of the three data formats, by their words. -/
theorem exec_opcodeRow {i : Instr} (h : (encode i).fmt = .bcmOpcode) (s : State) :
    exec i s = stageOpcode (encode i).bits s := by
  cases i with
  | txSetup | txDelete | txRead | rxSetup | rxDelete | rxRead | rxStatus | rxTimeout | rxChanged => rfl
  | frameEnc | frameDec | ivalToWire | ivalFromWire | bcmEnc | bcmDec | frameEq | bcmEq
  | setTimer | startTimer | rxFilterId | errFlag | rtrFlag | effFlag => cases h

theorem exec_bcmFlagRow {i : Instr} (h : (encode i).fmt = .bcmFlag) (s : State) :
    exec i s = stageBcmFlag (encode i).bits s := by
  cases i with
  | setTimer | startTimer | rxFilterId => rfl
  | frameEnc | frameDec | ivalToWire | ivalFromWire | bcmEnc | bcmDec | frameEq | bcmEq
  | txSetup | txDelete | txRead | rxSetup | rxDelete | rxRead | rxStatus | rxTimeout | rxChanged
  | errFlag | rtrFlag | effFlag => cases h

theorem exec_canFlagRow {i : Instr} (h : (encode i).fmt = .canFlag) (s : State) :
    exec i s = stageCanFlag (encode i).bits s := by
  cases i with
  | errFlag | rtrFlag | effFlag => rfl
  | frameEnc | frameDec | ivalToWire | ivalFromWire | bcmEnc | bcmDec | frameEq | bcmEq
  | txSetup | txDelete | txRead | rxSetup | rxDelete | rxRead | rxStatus | rxTimeout | rxChanged
  | setTimer | startTimer | rxFilterId => cases h

/-- Settles O41: each row is evaluated. -/
theorem opcodeConstantsStandInTheOpcodeField : Obligations.OpcodeConstantsStandInTheOpcodeField := by
  intro s p hp
  simp only [List.mem_cons, List.not_mem_nil, or_false] at hp
  rcases hp with rfl | rfl | rfl | rfl | rfl | rfl | rfl | rfl | rfl <;> rfl

/-- Settles O42: a mask of rule R57 has the one bit, and is ORed in. -/
theorem bcmFlagConstantsSetTheirBit : Obligations.BcmFlagConstantsSetTheirBit := by
  intro s p hp
  have hrow : (encode p.1).fmt = .bcmFlag ∧ ∀ k < 32, (encode p.1).bits.getLsbD k = decide (k = p.2) := by
    revert p
    decide
  refine ⟨s.operands.msg.flags ||| (encode p.1).bits, exec_bcmFlagRow hrow.1 s, fun k hk => ?_⟩
  rw [BitVec.getLsbD_or, hrow.2 k hk]

/-- Settles O43: a mask of rule R58, moved to the flags, has the one bit, and is ORed in. -/
theorem canFlagConstantsSetTheirBit : Obligations.CanFlagConstantsSetTheirBit := by
  intro s p hp
  have hrow : (encode p.1).fmt = .canFlag ∧ ∀ k < 3, (flagsOfWord (encode p.1).bits).getLsbD k = decide (k = p.2) := by
    revert p
    decide
  refine ⟨s.operands.frame.flags ||| flagsOfWord (encode p.1).bits, exec_canFlagRow hrow.1 s, fun k hk => ?_⟩
  rw [BitVec.getLsbD_or, hrow.2 k hk]

/-- A word into which a row's constant was ORed holds it. -/
theorem or_and_absorb (x mask : Word32) : (x ||| mask) &&& mask = mask := by
  ext i hi
  rw [BitVec.getElem_and, BitVec.getElem_or]
  cases x[i] <;> cases mask[i] <;> rfl

theorem rowHolds_of_bcmOpcode {i : Instr} (h : (encode i).fmt = .bcmOpcode) : rowHolds i (encode i).bits = true := by
  rw [rowHolds, rowMask, h]
  exact beq_iff_eq.2 BitVec.and_allOnes

theorem rowHolds_or {i : Instr} (h : (encode i).fmt = .bcmFlag ∨ (encode i).fmt = .canFlag) (x : Word32) :
    rowHolds i (x ||| (encode i).bits) = true := by
  have hmask : rowMask i = (encode i).bits := by
    rw [rowMask]
    rcases h with h | h <;> rw [h]
  rw [rowHolds, hmask, or_and_absorb]
  exact beq_self_eq_true _

/-- A flag ORed into a frame's flags stands in its identifier word (rules R18, R69). -/
theorem frameWord_stageCanFlag {i : Instr} (h : (encode i).fmt = .canFlag) (f : CanFrame) :
    ∃ x, frameWord { f with flags := f.flags ||| flagsOfWord (encode i).bits } = x ||| (encode i).bits := by
  have hback : (flagsOfWord (encode i).bits).setWidth 32 <<< 29 = (encode i).bits := by
    revert h
    cases i <;> decide
  rw [frameWord_eq, BitVec.setWidth_or, BitVec.shiftLeft_or_distrib, hback]
  exact ⟨_, by rw [← BitVec.or_assoc, BitVec.or_assoc, BitVec.or_comm (encode i).bits, ← BitVec.or_assoc]⟩

theorem word32At_frameBytes (f : CanFrame) : word32At (frameBytes .little f) 0 = frameWord f := by
  rw [frameBytes_eq_wireFrame, wireFrame, ← frameWord_eq, List.append_assoc]
  exact word32At_append_le32 [] _ _

/-- The opcode stands at offset 0 of a message's bytes (rules R51, R61). -/
theorem word32At_bcmBytes_opcode (m : BcmMessage) (h : m.frames.length < 2 ^ 32) :
    word32At (bcmBytes Config.hardware m) 0 = m.opcode :=
  word32At_bcmBytes h (i := 0) (by decide)

/-- Settles O44: the staged field differs from what it was by the constant, and its word is the encoder's. -/
theorem stagedConstantsReachTheWire : Obligations.StagedConstantsReachTheWire := by
  intro i s hdata
  cases hfmt : (encode i).fmt with
  | cmd => simp [isOperation, hfmt] at hdata
  | bcmOpcode =>
    refine ⟨_, exec_opcodeRow hfmt s, nofun, fun ⟨hlen, hcount⟩ => ?_⟩
    refine ⟨_, _, exec_bcmEnc_ok _ hlen hcount, fun _ => ?_, nofun⟩
    refine Eq.trans (congrArg (rowHolds i) (word32At_bcmBytes_opcode _ ?_)) (rowHolds_of_bcmOpcode hfmt)
    exact hcount
  | bcmFlag =>
    refine ⟨_, exec_bcmFlagRow hfmt s, nofun, fun ⟨hlen, hcount⟩ => ?_⟩
    refine ⟨_, _, exec_bcmEnc_ok _ hlen hcount, nofun, fun _ => ?_⟩
    refine Eq.trans (congrArg (rowHolds i) (word32At_bcmBytes_flags _ ?_)) (rowHolds_or (.inl hfmt) _)
    exact hcount
  | canFlag =>
    refine ⟨_, exec_canFlagRow hfmt s, fun ⟨_, hlen⟩ => ?_, fun ⟨hlen, hcount⟩ => ?_⟩
    · obtain ⟨x, hx⟩ := frameWord_stageCanFlag hfmt s.operands.frame
      refine ⟨_, _, exec_frameEnc_ok _ hlen, ?_⟩
      exact Eq.trans (congrArg (rowHolds i) ((word32At_frameBytes _).trans hx)) (rowHolds_or (.inr hfmt) x)
    · exact ⟨_, _, exec_bcmEnc_ok _ hlen hcount, nofun, nofun⟩

end Sys2Proof.Machine
end

section
/-! Completion of IVAL.TOWIRE, and the refusal of the interval width that the spec leaves out (41_interval rule R88, 00_scope rule
R5). -/

namespace Sys2Proof.Machine

/-- Settles O16: its result has no error, in the domain or outside it. -/
theorem ivalToWireAnswersEveryOperand : Obligations.IvalToWireAnswersEveryOperand := fun _ =>
  ⟨_, _, exec_eq_deliver_iff.2 ⟨rfl, rfl⟩⟩

theorem guardWidth_w64 {c : Config} (h : c.ivalW = .w64) (k : Outcome) : guardWidth c k = .refused .intervalWidth64 := by
  rw [guardWidth, h]

/-- Settles O49: the four operations with intervals begin with the guard of the width. -/
theorem intervalWidth64IsRefused : Obligations.IntervalWidth64IsRefused :=
  ⟨rfl, rfl, fun _ _ h => ⟨guardWidth_w64 h _, guardWidth_w64 h _, guardWidth_w64 h _, guardWidth_w64 h _⟩⟩

end Sys2Proof.Machine
end
